-- ==== Sys2Proof/Word.lean ====
section
/-! DEFINITION. Word types of the block and the plainest arithmetic on them (rule R10). -/

namespace Sys2Proof

/-- One byte of `CACHE`, a host buffer or a pipe FIFO (rule R88: every access is one byte wide). -/
abbrev Byte := BitVec 8

/-- A 16-bit field of a descriptor, a SETUP packet or an operand register. -/
abbrev Half := BitVec 16

/-- A command word of format CMD32 (rule R111). -/
abbrev Word := BitVec 32

/-- The eight wire bytes of a SETUP packet as one number, byte 0 in bits 7..0 (format SETUP64, rule R118). -/
abbrev SetupWord := BitVec 64

/-- `Status` is 8 bits (rule R114); the codes are named in `Machine/Flags.lean`. -/
abbrev Status := BitVec 8

end Sys2Proof
end

