-- ==== Sys2Proof/Config.lean ====
section
/-! DEFINITION. What an implementation of the block fixes: the parameters of rule R8, the application's tables of
rule R84, the derived constants of rule R9, the test configuration of 95_test_vectors.md, and the free values. -/

namespace Sys2Proof

/-- The parameters of rule R8, one field per row of its table. `P_CONTROL` is `Config.pControl`. The document leaves
most of them to the build, so every statement of the package takes them from the state, where no step changes them. -/
structure Config where
  /-- `HAS_VBUS_LOW` -/
  hasVbusLow : Bool
  /-- `HOST_STRICT_VID_PID_TABLE` -/
  strictVidPid : Bool
  /-- `HOST_ERROR_RESTART` -/
  errorRestart : Bool
  /-- `DEVICE_DEFAULT_MAX_ERROR_COUNT` -/
  maxErrorCount : Nat
  /-- `SIZEOF_DATA_STAGE` -/
  sizeofDataStage : Nat
  /-- `MAX_INTERFACE_SUPPORTED` -/
  maxInterface : Nat
  /-- `MAX_EP_PER_INTERFACE` -/
  maxEp : Nat
  /-- `HOST_AUTO_CFG_ENDPOINT` -/
  autoCfgEndpoint : Bool
  /-- `TIMEOUT_DETECTION_EN` -/
  timeoutDetection : Bool
  /-- `CTRL_DATA_TIMEOUT_MS` -/
  ctrlDataTimeout : Nat
  /-- `CTRL_STATUS_TIMEOUT_MS` -/
  ctrlStatusTimeout : Nat
  /-- `CTRL_SETUP_TIMEOUT_MS` -/
  ctrlSetupTimeout : Nat
  /-- `ATTACH_SOF_WINDOW` -/
  attachWindow : Nat
  /-- `POWERED_SOF_COUNT` -/
  poweredCount : Nat
  /-- `DELAY_TIMEOUT_EN` -/
  delayTimeoutEn : Bool
  /-- `DELAY_TIMEOUT_SOF` -/
  delayTimeoutSof : Nat
  /-- `NAK_TIMEOUT_EN` -/
  nakTimeoutEn : Bool
  /-- `NAK_SEND_BUDGET` -/
  nakSendBudget : Nat
  /-- `NAK_RECEIVE_BUDGET` -/
  nakReceiveBudget : Nat
  /-- `FIRST_DESC_WLENGTH` -/
  firstDescLen : Nat
  /-- `CTRL_MPS_INIT` -/
  ctrlMpsInit : Nat
  /-- `DEVICE_ADDRESS` -/
  deviceAddress : BitVec 7
  /-- `N_PIPES` -/
  nPipes : Nat
  /-- `PIPE_CAP[p]`, from pipe 0 upward. -/
  pipeCap : List Nat
deriving DecidableEq, Repr

/-- The application's registered tables (rule R84): `VIDPID_TABLE` as 16-bit words (rule R125) and `CLASS_TABLE` as
(class, subclass, protocol) triples (rule R126). Their lengths are `VIDPID_LEN` and `CLASS_LEN`. -/
structure Tables where
  vidPid : List Half
  classes : List (Byte × Byte × Byte)
deriving DecidableEq, Repr

/-- `P_CONTROL`, "the dedicated control pipe" (rule R8). -/
def Config.pControl : Nat := 0

/-- The data pipes `1 .. N_PIPES-1`, ascending. -/
def Config.dataPipes (c : Config) : List Nat := List.range' 1 (c.nPipes - 1)

/-- `PIPE_CAP[p]` (0 for a pipe the list does not name). -/
def Config.cap (c : Config) (p : Nat) : Nat := c.pipeCap.getD p 0

/-- `SMALL_CAP`: the smallest capacity of a data pipe (rule R9). -/
def Config.smallCap (c : Config) : Nat :=
  (c.dataPipes.map c.cap).foldl min (c.cap 1)

/-- `BIG_PIPE`: the lowest data pipe of maximal capacity (rule R9). -/
def Config.bigPipe (c : Config) : Nat :=
  c.dataPipes.foldl (fun best p => if c.cap best < c.cap p then p else best) 1

/-- The sizes rule R31 allows for `CTRL_MPS`. -/
def legalMps (n : Nat) : Bool := n == 8 || n == 16 || n == 32 || n == 64

/-- The ranges that rule R8 and rule R48 give the parameters. `N_PIPES` is at most 255 because a pipe number is an
8-bit field in which 0xFF is `NOPIPE` (rule R34, rule R111). -/
def Config.legal (c : Config) : Bool :=
  decide (1 ≤ c.maxErrorCount) && decide (c.maxErrorCount ≤ 255) &&
  decide (18 ≤ c.sizeofDataStage) && decide (1 ≤ c.maxInterface) && decide (c.maxInterface ≤ 255) &&
  decide (1 ≤ c.maxEp) && decide (c.maxEp ≤ 255) &&
  decide (c.ctrlDataTimeout < 0xFFFF) && decide (c.ctrlStatusTimeout < 0xFFFF) && decide (c.ctrlSetupTimeout < 0xFFFF) &&
  decide (c.attachWindow ≤ 255) && decide (c.poweredCount ≤ 255) &&
  decide (1 ≤ c.delayTimeoutSof) && decide (c.delayTimeoutSof < 0xFFFF) &&
  decide (1 ≤ c.nakSendBudget) && decide (c.nakSendBudget < 0xFFFF) &&
  decide (1 ≤ c.nakReceiveBudget) && decide (c.nakReceiveBudget < 0xFFFF) &&
  decide (8 ≤ c.firstDescLen) && decide (c.firstDescLen ≤ 0xFFFF) && decide (c.firstDescLen ≤ c.sizeofDataStage) &&
  legalMps c.ctrlMpsInit && decide (c.deviceAddress ≠ 0) &&
  decide (2 ≤ c.nPipes) && decide (c.nPipes ≤ 255) && decide (c.pipeCap.length = c.nPipes)

/-- The configuration `CFG-T` of 95_test_vectors.md. DESIGN CHOICE (log entry 1): `State.reset` is built with it,
because the document leaves the parameters open; nothing but a statement about `State.reset` itself rests on it. -/
def Config.cfgT : Config where
  hasVbusLow := false
  strictVidPid := true
  errorRestart := false
  maxErrorCount := 2
  sizeofDataStage := 255
  maxInterface := 2
  maxEp := 2
  autoCfgEndpoint := true
  timeoutDetection := true
  ctrlDataTimeout := 1000
  ctrlStatusTimeout := 2000
  ctrlSetupTimeout := 1000
  attachWindow := 100
  poweredCount := 100
  delayTimeoutEn := true
  delayTimeoutSof := 500
  nakTimeoutEn := true
  nakSendBudget := 3
  nakReceiveBudget := 4
  firstDescLen := 64
  ctrlMpsInit := 64
  deviceAddress := 1#7
  nPipes := 7
  pipeCap := [64, 64, 64, 64, 64, 256, 256]

/-- The tables of `CFG-T`. -/
def Tables.cfgT : Tables where
  vidPid := [0x03EB#16, 2#16, 0x2002#16, 0x2003#16, 0x0483#16, 1#16, 0x5740#16]
  classes := [(0x08#8, 0x06#8, 0x50#8)]

/-- FREE VALUE (log entry 9): the byte `hal.fifo_read` gives when the FIFO it reads holds none. No rule states it;
nothing is known of it. It is applied to the counter `State.free`. -/
opaque Config.freeByte : Nat → Byte

/-- FREE VALUE (log entry 28): what a FIFO holds once more bytes have come than `PIPE_CAP[p]`. No rule states it; nothing
is known of it. It is applied to the pipe and to how many outputs have been issued so far; the FIFO holds as much of it as
fits. -/
opaque Config.freeFifo : Nat → Nat → List Byte

end Sys2Proof
end

