-- ==== Sys2Proof/Syntax.lean ====
section
/-! DEFINITION. The operations of the block: one constructor of `Instr` per row of spec/opcode_table.json (rule R115,
rule R116 and the request builders of rule R130 to rule R138), and the form in which one is presented. -/

namespace Sys2Proof

/-- One operation. The fields are those of CMD32 (rule R111) or, for a request builder, its operands. -/
inductive Instr where
  /-- TICK (op 0x00): one activation of the port state machine. -/
  | tick
  /-- TRANSFER_CONTROL (op 0x01): `b` selects the buffer, 0 = `CACHE`, 1 = host buffer. -/
  | transferControl (b : BitVec 8)
  /-- SEND_DATA (op 0x02) on pipe `p`. -/
  | sendData (p : BitVec 8)
  /-- GET_DATA (op 0x03) on pipe `p`. -/
  | getData (p : BitVec 8)
  /-- SEND_DATA_ASYNC (op 0x04) on pipe `p`. -/
  | sendDataAsync (p : BitVec 8)
  /-- GET_DATA_ASYNC (op 0x05) on pipe `p`. -/
  | getDataAsync (p : BitVec 8)
  /-- SUSPEND (op 0x06). -/
  | suspend
  /-- RESUME (op 0x07). -/
  | resume
  /-- ABORT_ALL_PIPES (op 0x08). -/
  | abortAllPipes
  /-- PIPE_ISR (op 0x09): the interrupt entry of pipe `p`. -/
  | pipeIsr (p : BitVec 8)
  /-- CHECK_VID_PID (op 0x0A). -/
  | checkVidPid
  /-- CHECK_CLASS (op 0x0B). -/
  | checkClass
  /-- IS_HOST_READY (op 0x10). -/
  | isHostReady
  /-- IS_HOST_SUSPENDED (op 0x11). -/
  | isHostSuspended
  /-- GET_VID (op 0x12). -/
  | getVid
  /-- GET_PID (op 0x13). -/
  | getPid
  /-- NUM_SUPPORTED_INTERFACES (op 0x14). -/
  | numSupportedInterfaces
  /-- INTERFACE_CLASS (op 0x15) of interface index `i`. -/
  | interfaceClass (i : BitVec 8)
  /-- INTERFACE_SUBCLASS (op 0x16) of interface index `i`. -/
  | interfaceSubclass (i : BitVec 8)
  /-- INTERFACE_PROTOCOL (op 0x17) of interface index `i`. -/
  | interfaceProtocol (i : BitVec 8)
  /-- INTERFACE_PIPE (op 0x18) of interface index `i`, endpoint index `e`. -/
  | interfacePipe (i e : BitVec 8)
  /-- EV_SOF (op 0x80). -/
  | evSof
  /-- EV_DISCONNECT (op 0x81). -/
  | evDisconnect
  /-- EV_ROLE_CHANGE (op 0x82). -/
  | evRoleChange
  /-- EV_VBUS_ERROR (op 0x83). -/
  | evVbusError
  /-- EV_WAKEUP (op 0x84). -/
  | evWakeup
  /-- `get_descriptor_device(len, incomplete)` (rule R131); `incomplete` is the side bit, not on the wire. -/
  | getDescriptorDevice (len : Half) (incomplete : Bool)
  /-- `get_descriptor_configuration(idx, len)` (rule R132). -/
  | getDescriptorConfiguration (idx : BitVec 8) (len : Half)
  /-- `host_set_address(addr)` (rule R133). -/
  | hostSetAddress (addr : BitVec 8)
  /-- `set_configuration(cfg)` (rule R134). -/
  | setConfiguration (cfg : BitVec 8)
  /-- `set_interface(ifnum, alt)` (rule R135). -/
  | setInterface (ifnum alt : BitVec 8)
  /-- `set_feature_remote_wakeup()` (rule R136). -/
  | setFeatureRemoteWakeup
  /-- `clear_feature_endpoint_halt(epaddr)` (rule R138). -/
  | clearFeatureEndpointHalt (epaddr : BitVec 8)
  /-- `get_configuration()` (rule R137). -/
  | getConfiguration
deriving DecidableEq, Repr

/-- What the environment presents: a command word (rule R111), or the value of a request builder (rule R130), which
is eight SETUP bytes and the `incomplete_read` side bit. -/
inductive Presented where
  | cmd (w : Word)
  | setup (w : SetupWord) (incomplete : Bool)
deriving DecidableEq, Repr

/-- Why a presented word names no operation (rule R127 (1)). -/
inductive DecodeError where
  /-- `op` is in neither rule R115 nor rule R116. -/
  | unknownOp
  /-- The `z` field is not 0. -/
  | reservedZ
  /-- An unused `a` or `b` field is not 0. -/
  | unusedField
  /-- A TRANSFER_CONTROL buffer select other than 0 or 1. -/
  | bufferSelect
  /-- Eight SETUP bytes that are no value of a builder of rule R131 to rule R138. -/
  | unknownRequest
deriving DecidableEq, Repr

end Sys2Proof
end

