-- ==== Sys2Proof/WellFormed.lean ====
section
/-! DEFINITION. When an operation has an encoding. -/

namespace Sys2Proof

/-- An operation is well formed when its fields have an encoding: every field of CMD32 and every builder operand takes
all its values, but for the buffer select of TRANSFER_CONTROL, which is 0 or 1 (rule R127 (1)). The ranges of a pipe
operand and of the query indices depend on the state and are checked by the operation's own rule (rule R127 (2)). -/
def WellFormed : Instr → Bool
  | .tick => true
  | .transferControl b => b == 0#8 || b == 1#8
  | .sendData _ => true
  | .getData _ => true
  | .sendDataAsync _ => true
  | .getDataAsync _ => true
  | .suspend => true
  | .resume => true
  | .abortAllPipes => true
  | .pipeIsr _ => true
  | .checkVidPid => true
  | .checkClass => true
  | .isHostReady => true
  | .isHostSuspended => true
  | .getVid => true
  | .getPid => true
  | .numSupportedInterfaces => true
  | .interfaceClass _ => true
  | .interfaceSubclass _ => true
  | .interfaceProtocol _ => true
  | .interfacePipe _ _ => true
  | .evSof => true
  | .evDisconnect => true
  | .evRoleChange => true
  | .evVbusError => true
  | .evWakeup => true
  | .getDescriptorDevice _ _ => true
  | .getDescriptorConfiguration _ _ => true
  | .hostSetAddress _ => true
  | .setConfiguration _ => true
  | .setInterface _ _ => true
  | .setFeatureRemoteWakeup => true
  | .clearFeatureEndpointHalt _ => true
  | .getConfiguration => true

end Sys2Proof
end

