-- ==== Sys2Proof/Decode.lean ====
section
/-! DEFINITION. The decoder, total on every word and rejecting by name, and the encoder, both written from rule R111,
rule R115, rule R116, rule R118 and the SETUP64 rows of spec/opcode_table.json. -/

namespace Sys2Proof

/-- `op`, bits 31:24 (rule R111). -/
def fieldOp (w : Word) : BitVec 8 := w.extractLsb' 24 8

/-- `a`, bits 23:16. -/
def fieldA (w : Word) : BitVec 8 := w.extractLsb' 16 8

/-- `b`, bits 15:8. -/
def fieldB (w : Word) : BitVec 8 := w.extractLsb' 8 8

/-- `z`, bits 7:0, which must be 0. -/
def fieldZ (w : Word) : BitVec 8 := w.extractLsb' 0 8

/-- An operation that uses neither `a` nor `b`. -/
def bare (w : Word) (i : Instr) : Except DecodeError Instr :=
  if fieldA w = 0#8 ∧ fieldB w = 0#8 then .ok i else .error .unusedField

/-- An operation that uses `a` and not `b`. -/
def withA (w : Word) (i : BitVec 8 → Instr) : Except DecodeError Instr :=
  if fieldB w = 0#8 then .ok (i (fieldA w)) else .error .unusedField

/-- TRANSFER_CONTROL: `a` unused, `b` the buffer select 0 or 1. -/
def withSelect (w : Word) : Except DecodeError Instr :=
  if fieldA w = 0#8 then
    if fieldB w = 0#8 ∨ fieldB w = 1#8 then .ok (.transferControl (fieldB w)) else .error .bufferSelect
  else .error .unusedField

/-- The operation a command word names (rule R115, rule R116; rule R127 (1) for the words that name none). -/
def decodeCmd (w : Word) : Except DecodeError Instr :=
  if fieldZ w ≠ 0#8 then .error .reservedZ
  else if fieldOp w = 0x00#8 then bare w .tick
  else if fieldOp w = 0x01#8 then withSelect w
  else if fieldOp w = 0x02#8 then withA w .sendData
  else if fieldOp w = 0x03#8 then withA w .getData
  else if fieldOp w = 0x04#8 then withA w .sendDataAsync
  else if fieldOp w = 0x05#8 then withA w .getDataAsync
  else if fieldOp w = 0x06#8 then bare w .suspend
  else if fieldOp w = 0x07#8 then bare w .resume
  else if fieldOp w = 0x08#8 then bare w .abortAllPipes
  else if fieldOp w = 0x09#8 then withA w .pipeIsr
  else if fieldOp w = 0x0A#8 then bare w .checkVidPid
  else if fieldOp w = 0x0B#8 then bare w .checkClass
  else if fieldOp w = 0x10#8 then bare w .isHostReady
  else if fieldOp w = 0x11#8 then bare w .isHostSuspended
  else if fieldOp w = 0x12#8 then bare w .getVid
  else if fieldOp w = 0x13#8 then bare w .getPid
  else if fieldOp w = 0x14#8 then bare w .numSupportedInterfaces
  else if fieldOp w = 0x15#8 then withA w .interfaceClass
  else if fieldOp w = 0x16#8 then withA w .interfaceSubclass
  else if fieldOp w = 0x17#8 then withA w .interfaceProtocol
  else if fieldOp w = 0x18#8 then .ok (.interfacePipe (fieldA w) (fieldB w))
  else if fieldOp w = 0x80#8 then bare w .evSof
  else if fieldOp w = 0x81#8 then bare w .evDisconnect
  else if fieldOp w = 0x82#8 then bare w .evRoleChange
  else if fieldOp w = 0x83#8 then bare w .evVbusError
  else if fieldOp w = 0x84#8 then bare w .evWakeup
  else .error .unknownOp

/-- Byte `k` of the SETUP packet, byte 0 first on the wire (rule R118). -/
def wireByte (w : SetupWord) (k : Nat) : Byte := w.extractLsb' (8 * k) 8

/-- The 16-bit field whose low byte is byte `k` (rule R118, `LE16` of rule R10). -/
def wireHalf (w : SetupWord) (k : Nat) : Half := w.extractLsb' (8 * k) 16

/-- The builder whose value eight SETUP bytes and a side bit are (the SETUP64 rows of spec/opcode_table.json). -/
def decodeSetup (w : SetupWord) (incomplete : Bool) : Except DecodeError Instr :=
  if wireHalf w 0 = 0x0680#16 ∧ wireHalf w 2 = 0x0100#16 ∧ wireHalf w 4 = 0#16 then
    .ok (.getDescriptorDevice (wireHalf w 6) incomplete)
  else if incomplete then .error .unknownRequest
  else if wireHalf w 0 = 0x0680#16 ∧ wireByte w 3 = 0x02#8 ∧ wireHalf w 4 = 0#16 then
    .ok (.getDescriptorConfiguration (wireByte w 2) (wireHalf w 6))
  else if wireHalf w 0 = 0x0500#16 ∧ wireByte w 3 = 0#8 ∧ wireHalf w 4 = 0#16 ∧ wireHalf w 6 = 0#16 then
    .ok (.hostSetAddress (wireByte w 2))
  else if wireHalf w 0 = 0x0900#16 ∧ wireByte w 3 = 0#8 ∧ wireHalf w 4 = 0#16 ∧ wireHalf w 6 = 0#16 then
    .ok (.setConfiguration (wireByte w 2))
  else if wireHalf w 0 = 0x0B01#16 ∧ wireByte w 3 = 0#8 ∧ wireByte w 5 = 0#8 ∧ wireHalf w 6 = 0#16 then
    .ok (.setInterface (wireByte w 4) (wireByte w 2))
  else if wireHalf w 0 = 0x0300#16 ∧ wireHalf w 2 = 0x0001#16 ∧ wireHalf w 4 = 0#16 ∧ wireHalf w 6 = 0#16 then
    .ok .setFeatureRemoteWakeup
  else if wireHalf w 0 = 0x0102#16 ∧ wireHalf w 2 = 0#16 ∧ wireByte w 5 = 0#8 ∧ wireHalf w 6 = 0#16 then
    .ok (.clearFeatureEndpointHalt (wireByte w 4))
  else if wireHalf w 0 = 0x0880#16 ∧ wireHalf w 2 = 0#16 ∧ wireHalf w 4 = 0#16 ∧ wireHalf w 6 = 1#16 then
    .ok .getConfiguration
  else .error .unknownRequest

/-- The operation that what is presented names. -/
def decode : Presented → Except DecodeError Instr
  | .cmd w => decodeCmd w
  | .setup w incomplete => decodeSetup w incomplete

/-- A command word from its fields (rule R111): `op << 24 | a << 16 | b << 8 | z`, with `z = 0`. -/
def cmdWord (op a b : BitVec 8) : Word := op ++ a ++ b ++ 0#8

/-- SETUP bytes from the five fields, each low byte first (rule R118). -/
def setupWire (rt rq : Byte) (value index length : Half) : SetupWord :=
  length ++ index ++ value ++ rq ++ rt

/-- The encoding of an operation, from the tables of rule R115 and rule R116 and the SETUP64 rows. -/
def encode : Instr → Presented
  | .tick => .cmd (cmdWord 0x00#8 0#8 0#8)
  | .transferControl b => .cmd (cmdWord 0x01#8 0#8 b)
  | .sendData p => .cmd (cmdWord 0x02#8 p 0#8)
  | .getData p => .cmd (cmdWord 0x03#8 p 0#8)
  | .sendDataAsync p => .cmd (cmdWord 0x04#8 p 0#8)
  | .getDataAsync p => .cmd (cmdWord 0x05#8 p 0#8)
  | .suspend => .cmd (cmdWord 0x06#8 0#8 0#8)
  | .resume => .cmd (cmdWord 0x07#8 0#8 0#8)
  | .abortAllPipes => .cmd (cmdWord 0x08#8 0#8 0#8)
  | .pipeIsr p => .cmd (cmdWord 0x09#8 p 0#8)
  | .checkVidPid => .cmd (cmdWord 0x0A#8 0#8 0#8)
  | .checkClass => .cmd (cmdWord 0x0B#8 0#8 0#8)
  | .isHostReady => .cmd (cmdWord 0x10#8 0#8 0#8)
  | .isHostSuspended => .cmd (cmdWord 0x11#8 0#8 0#8)
  | .getVid => .cmd (cmdWord 0x12#8 0#8 0#8)
  | .getPid => .cmd (cmdWord 0x13#8 0#8 0#8)
  | .numSupportedInterfaces => .cmd (cmdWord 0x14#8 0#8 0#8)
  | .interfaceClass i => .cmd (cmdWord 0x15#8 i 0#8)
  | .interfaceSubclass i => .cmd (cmdWord 0x16#8 i 0#8)
  | .interfaceProtocol i => .cmd (cmdWord 0x17#8 i 0#8)
  | .interfacePipe i e => .cmd (cmdWord 0x18#8 i e)
  | .evSof => .cmd (cmdWord 0x80#8 0#8 0#8)
  | .evDisconnect => .cmd (cmdWord 0x81#8 0#8 0#8)
  | .evRoleChange => .cmd (cmdWord 0x82#8 0#8 0#8)
  | .evVbusError => .cmd (cmdWord 0x83#8 0#8 0#8)
  | .evWakeup => .cmd (cmdWord 0x84#8 0#8 0#8)
  | .getDescriptorDevice len incomplete => .setup (setupWire 0x80#8 0x06#8 0x0100#16 0#16 len) incomplete
  | .getDescriptorConfiguration idx len => .setup (setupWire 0x80#8 0x06#8 (0x02#8 ++ idx) 0#16 len) false
  | .hostSetAddress addr => .setup (setupWire 0x00#8 0x05#8 (0#8 ++ addr) 0#16 0#16) false
  | .setConfiguration cfg => .setup (setupWire 0x00#8 0x09#8 (0#8 ++ cfg) 0#16 0#16) false
  | .setInterface ifnum alt => .setup (setupWire 0x01#8 0x0B#8 (0#8 ++ alt) (0#8 ++ ifnum) 0#16) false
  | .setFeatureRemoteWakeup => .setup (setupWire 0x00#8 0x03#8 0x0001#16 0#16 0#16) false
  | .clearFeatureEndpointHalt ep => .setup (setupWire 0x02#8 0x01#8 0#16 (0#8 ++ ep) 0#16) false
  | .getConfiguration => .setup (setupWire 0x80#8 0x08#8 0#16 0#16 1#16) false

/-- What is presented when the instruction bits are `w` as spec/opcode_table.json numbers them: a CMD32 row has 32
bits; a SETUP64 row has 64, byte 0 in bits 7..0, and its side bit is 0. -/
def presentedOf (nbits w : Nat) : Option Presented :=
  if nbits = 32 then some (.cmd (BitVec.ofNat 32 w))
  else if nbits = 64 then some (.setup (BitVec.ofNat 64 w) false)
  else none

/-- The operation the decoder reads from an opcode-table row's bits. -/
def decodeTableWord (nbits w : Nat) : Option Instr :=
  match presentedOf nbits w with
  | none => none
  | some p =>
    match decode p with
    | .ok i => some i
    | .error _ => none

end Sys2Proof
end

