-- ==== Sys2Proof/Machine/State.lean ====
section
/-! DEFINITION. The state of the block as plain data: the registers of 10_state.md, the operand and result registers of
rule R111, the memory spaces of rule R80, the abstract HAL of rule R61 and rule R62, the foreground's remaining
micro-steps (rule R12), the environment's inputs, and the outputs issued so far. -/

namespace Sys2Proof.Machine

/-- The states of `DS` (rule R22). A `DS` code 12 to 15 has no value here (rule R113). -/
inductive DevState where
  | unattached | attached | powered | default | addressed | configured | ready | error | unsupported
  | suspended | waitResume | vbusLow
deriving DecidableEq, Repr

/-- The phases of the control-transfer sequencer (`CT_PHASE`, rule R23). -/
inductive CtPhase where
  | idle | waitSof | setup | dataIn | keepAlive | dataOut | statusOut | statusIn
deriving DecidableEq, Repr

/-- The phases of the synchronous pump (`SP_PHASE`, rule R24). -/
inductive SpPhase where
  | idle | sending | receiving | keepAlive
deriving DecidableEq, Repr

/-- `CT_BUF`, the buffer operand of a control transfer: a space and a capacity (rule R23, rule R82). -/
inductive CtBuf where
  | none
  | cache
  | host (buf cap : Nat)
deriving DecidableEq, Repr

/-- `PIPE[p].type`: 0 control, 1 isochronous, 2 bulk, 3 interrupt (rule R36, rule R124). -/
inductive PipeType where
  | control | isochronous | bulk | interrupt
deriving DecidableEq, Repr

/-- The token a pipe sends (`hal.set_token`, rule R61). -/
inductive Token where
  | setup | receive | send
deriving DecidableEq, Repr

/-- `SR`, the setup latch (rule R32), and the value a request builder gives (rule R130). -/
structure Setup where
  bmRequestType : Byte
  bRequest : Byte
  wValue : Half
  wIndex : Half
  wLength : Half
  incompleteRead : Bool
deriving DecidableEq, Repr

/-- `CT_PHASE`, `CT_REM`, `CT_OFF`, `CT_BUF` (rule R23). Counts are naturals (rule R48). -/
structure CtRegs where
  phase : CtPhase
  rem : Nat
  off : Nat
  buf : CtBuf
deriving DecidableEq, Repr

/-- `SP_PHASE`, `SP_PIPE`, `SP_REM`, `SP_OFF` (rule R24), with the host buffer operand latched at entry. -/
structure SpRegs where
  phase : SpPhase
  pipe : Nat
  rem : Nat
  off : Nat
  buf : Nat
deriving DecidableEq, Repr

/-- `EMERG`, `EVT_SOF`, `WAKE_EVT`, `SUSP_REQ`, `RESUME_REQ`, `REARM` (rule R25 to rule R27). -/
structure FlagRegs where
  emerg : Bool
  evtSof : Bool
  wakeEvt : Bool
  suspReq : Bool
  resumeReq : Bool
  rearm : Bool
deriving DecidableEq, Repr

/-- `SOFIE`, its two save slots, `SOFGEN`, `VBUSEN`, `DISC_IE`, `WAKEIE` (rule R28, rule R29). -/
structure EnableRegs where
  sofie : Bool
  sofieSaveFg : Bool
  sofieSaveAsync : Bool
  sofgen : Bool
  vbusen : Bool
  discIe : Bool
  wakeie : Bool
deriving DecidableEq, Repr

/-- `TMO`, `NAKCNT`, `SOFCNT`, `ERRCNT` (rule R30). -/
structure CountRegs where
  tmo : Nat
  nakcnt : Nat
  sofcnt : Nat
  errcnt : Nat
deriving DecidableEq, Repr

/-- `VID`, `PID`, `DEVADDR`, `CTRL_MPS` (rule R31). -/
structure IdentRegs where
  vid : Half
  pid : Half
  devaddr : BitVec 7
  ctrlMps : Nat
deriving DecidableEq, Repr

/-- `PEND_EP`, `CUR_SI`, `P_OFF` (rule R35). -/
structure ParseRegs where
  pendEp : Nat
  curSi : Option Nat
  off : Nat
deriving DecidableEq, Repr

/-- One `SI` entry (rule R34). `pipe` holds one pipe number per endpoint index, `NOPIPE` = 0xFF where there is none. -/
structure Iface where
  ifnum : Byte
  alt : Byte
  cls : Byte
  subclass : Byte
  protocol : Byte
  nbEp : Nat
  pipe : List Byte
  configured : Bool
deriving DecidableEq, Repr

/-- One `PIPE` entry (rule R36). -/
structure Pipe where
  alloc : Bool
  typ : PipeType
  dirIn : Bool
  ep : BitVec 4
  mps : Nat
  banks : Nat
  interval : Byte
  frozen : Bool
deriving DecidableEq, Repr

/-- One `JOB` entry (rule R37). -/
structure Job where
  enabled : Bool
  dirIn : Bool
  total : Nat
  processed : Nat
  inflight : Nat
  buf : Nat
  cb : Nat
  nak : Nat
  timeoutCnt : Nat
  status : Status
deriving DecidableEq, Repr

/-- The operand registers `ARG_SETUP` (eight bytes and the `incomplete_read` bit), `ARG_BUF`, `ARG_LEN`, `ARG_CB`
(rule R111). A buffer reference and a callback handle are names the application chose. -/
structure Args where
  setup : SetupWord
  incomplete : Bool
  buf : Nat
  len : Half
  cb : Nat
deriving DecidableEq, Repr

/-- The result registers `RES_STATUS`, `RES_BOOL`, `RES_VAL`, `RES_LEN` (rule R111). -/
structure Results where
  status : Status
  bool : Bool
  val : Half
  len : Half
deriving DecidableEq, Repr

/-- The interrupt causes of a pipe that `hal.enable_pipe_int` selects (rule R61, rule R420). -/
structure Causes where
  ready : Bool
  stall : Bool
  error : Bool
  nak : Bool
deriving DecidableEq, Repr

/-- What the HAL holds of one pipe: whether it is enabled, its FIFO, whether the FIFO bank has been handed to the SIE and
its packet is in flight (`hal.send_setup`, `hal.send_out`), its sticky event flags and `byte_count` (rule R61, rule R62,
rule R80 (3)), and the causes that interrupt. Bit k of `error` is the k-th kind of rule R114. -/
structure HalPipe where
  on : Bool
  frozen : Bool
  token : Token
  fifo : List Byte
  sent : Bool
  byteCount : Nat
  setupAck : Bool
  inReady : Bool
  outReady : Bool
  stall : Bool
  nak : Bool
  error : BitVec 5
  causes : Causes
deriving DecidableEq, Repr

/-- The HAL input signals of rule R62, with the pending start-of-frame of rule R420 and the address every pipe
targets (rule R61). -/
structure Hal where
  vbusHigh : Bool
  lowSpeed : Bool
  highSpeed : Bool
  resetting : Bool
  conn : Bool
  disc : Bool
  roleChange : Bool
  vbusError : Bool
  wakeup : Bool
  resumeSent : Bool
  sof : Bool
  address : BitVec 7
  pipes : List HalPipe
deriving DecidableEq, Repr

/-- The HAL output actions of rule R61. -/
inductive HalAction where
  | enableVbus | assertReset | startSof | stopSof | enableDiscInt | disableDiscInt
  | armWakeupInt | disarmWakeupInt | sendResume
  | setAddress (a : BitVec 7)
  | configurePipe (p : Nat) (typ : PipeType) (dirIn : Bool) (ep : BitVec 4) (mps banks : Nat) (interval : Byte)
  | disablePipe (p : Nat) | resetPipe (p : Nat) | freezePipe (p : Nat) | unfreezePipe (p : Nat)
  | setToken (p : Nat) (t : Token)
  | fifoWrite (p : Nat) (b : Byte) | fifoRead (p : Nat)
  | sendSetup (p : Nat) | sendOut (p : Nat) | sendIn (p : Nat)
  | ackSetup (p : Nat) | ackIn (p : Nat) | ackOut (p : Nat) | ackStall (p : Nat) | ackNak (p : Nat)
  | ackErrors (p : Nat)
  | ackConn | ackDisc | ackRoleChange | ackVbusError | ackWakeup | ackResumeSent
  | enablePipeInt (p : Nat) (set : Causes) | disablePipeInt (p : Nat)
deriving DecidableEq, Repr

/-- An output event: a HAL action (rule R61), a completion callback or a parser hook (rule R64). -/
inductive Output where
  | hal (a : HalAction)
  | callback (cb : Nat) (st : Status) (n : Nat)
  | hook (off : Nat)
deriving DecidableEq, Repr

/-- The three causes of `Disconnect` (rule R422). -/
inductive Cause where
  | disconnect | roleChange | vbusError
deriving DecidableEq, Repr

/-- One field of an `SI` entry, with the value it is given (rule R267, rule R269). -/
inductive SiField where
  | ifnum (v : Byte) | alt (v : Byte) | cls (v : Byte) | subclass (v : Byte) | protocol (v : Byte)
  | nbEp (n : Nat) | pipe (e : Nat) (v : Byte) | configured (b : Bool)
deriving DecidableEq, Repr

/-- A straight-line micro-step (rule R12): one register write, one HAL action or one pass of a `critical` body. -/
inductive Act where
  | hal (a : HalAction)
  | setDs (d : DevState)
  | setVbusen (b : Bool) | setSofgen (b : Bool) | setDiscIe (b : Bool) | setWakeie (b : Bool)
  | setRearm (b : Bool) | clearEvtSof
  | zeroSofcnt | incSofcnt | zeroTmo | zeroNakcnt | incErrcnt
  | ctSetup (r : Setup) | ctBuf (b : CtBuf) | ctRem (n : Nat) | ctOff (n : Nat) | ctPhase (p : CtPhase)
  | ctMoveOff (n : Nat) | ctMoveRem (n : Nat)
  | spPipe (p : Nat) | spBuf (b : Nat) | spRem (n : Nat) | spOff (n : Nat) | spPhase (p : SpPhase)
  | spMoveOff (n : Nat) | spMoveRem (n : Nat)
  | setFrozen (p : Nat) (b : Bool) | setAlloc (p : Nat) (b : Bool)
  | setPendEp (n : Nat) | decPendEp | setCurSi (o : Option Nat) | setParseOff (n : Nat) | moveParseOff (n : Nat)
  | setSi (i : Nat) (f : SiField)
  | jobInflight (p n : Nat)
  | latchCacheLen
  | setStatus (st : Status)
  | resStatus | resBool (b : Bool) | resLen (n : Nat)
  | fifoSetup (k : Nat) | fifoFromHost (p b off : Nat) | fifoFromJob (p k : Nat) | fifoToHost (p b off : Nat)
  | critClear | advance (d : DevState) | critDevaddr (a : BitVec 7) | critPipe0 | critMps (m : Nat) | critIds
  | critSofPush | critSofPop | critSuspTaken | critWakeClear | critResumeTaken
  | critNsiZero | critNsiInc | critSetPipe (p : Nat) (r : Pipe)
deriving DecidableEq, Repr

/-- Who runs `BusReset` (rule R153). -/
inductive ResetFor where
  | attached | second
deriving DecidableEq, Repr

/-- Who runs CHECK_CLASS: the command, or TICK in `Configured` with the configuration value it read (rule R161). -/
inductive ParseFor where
  | command | tick (cfg : Byte)
deriving DecidableEq, Repr

/-- The five waits of a control transfer that are `CtWait` (rule R222, rule R226). -/
inductive CtWaitFor where
  | setupAck | dataIn | dataOut | statusOut | statusIn
deriving DecidableEq, Repr

/-- A command a callback or hook issues (rule R356), with the operand registers the application wrote before it. -/
structure NestedCmd where
  word : Word
  args : Args
deriving DecidableEq, Repr

/-- A micro-step of the foreground (rule R12, rule R13): a straight-line one, or one that samples registers and HAL
signals at one instant and says what comes next. -/
inductive Micro where
  | act (a : Act)
  -- TICK (40_port_fsm.md)
  | ifSofgen | ifWakeie | ifDiscOff | ifVbusHigh
  | attachedStart | ifConnAck | pollReset (who : ResetFor) | pollWindow | recheckDisc | retIfEmerg
  | poweredCount | poweredCheck
  | defaultFetched | defaultMps | defaultAddressed | defaultRetry
  | addressedFetched | addressedMatch
  | configuredFetched | configuredSet
  | readyCheck | ifWakeupAck | waitResumeStart | pollResume
  | disconnect (c : Cause)
  -- TRANSFER_CONTROL (41_control_transfer.md)
  | ctCheck (r : Setup) (b : CtBuf) | ctPollSof | ctPoll (w : CtWaitFor) | ctStage
  | ctInLoop | ctInTake | ctReadByte (k : Nat) | ctInNext (cnt : Nat)
  | ctOutLoop | ctWriteByte (k : Nat)
  | ctExit | ctAckErrors | ctAckStall | ctLen
  -- SEND_DATA, GET_DATA (43_sync_pump.md)
  | spOutLoop (p : Nat) | spInLoop (p : Nat) | spPoll (p : Nat) (dirIn : Bool) | spInTake (p : Nat)
  | spInNext (p cnt : Nat) | spPollSof | spExit (p : Nat) (dirIn : Bool) | spAckErrors (p : Nat) | spAckStall (p : Nat)
  | spLen (dirIn : Bool)
  -- the asynchronous pump (44_async_pump.md)
  | abortPipe (p : Nat) | complete (p : Nat) (st : Status) | callback (cb : Nat) (st : Status) (n : Nat)
  | nested (c : NestedCmd)
  | armCrit (p : Nat) (dirIn : Bool) (buf len cb : Nat) | prime (p : Nat) (dirIn : Bool) | armCauses (p : Nat)
  -- CHECK_CLASS (42_descriptor_parser.md)
  | freePipe (p : Nat) | parseTotal (who : ParseFor) | parseWalk (total : Nat) (who : ParseFor) | hook (off : Nat)
  | parseRecord (len typ total : Nat) (who : ParseFor) | ifacePending | ifaceMatch (len total : Nat) (who : ParseFor)
  | ifaceAuto (i : Nat) | ifaceEmpty (i : Nat) | endpoint (len : Nat) | endpointDone (i : Nat)
  | parseEnd (who : ParseFor) | parseReturn (who : ParseFor)
deriving DecidableEq, Repr

/-- What the environment can do between two micro-steps (rule R12): change a HAL input (rule R62), let the interrupt
sequencer present a pending source (`irq`, rule R430), present an operation with its operand registers (rule R60),
write a host buffer, supply the application tables (rule R84), or construct the context again (rule R460). -/
inductive Event where
  | vbus (high : Bool) | speed (low high : Bool) | resetting (b : Bool)
  | conn | disc | roleChange | vbusError | wakeup | resumeSent | sof
  | setupAck (p : Nat) | inPacket (p : Nat) (bytes : List Byte) | outReady (p : Nat) | stall (p : Nat) | nak (p : Nat)
  | pipeError (p : Nat) (kinds : BitVec 5)
  | irq
  | present (w : Presented) (args : Args)
  | hostWrite (buf off : Nat) (bytes : List Byte)
  | setTables (t : Tables)
  | construct
deriving DecidableEq, Repr

/-- When an input falls due while the foreground runs: when the foreground's poll is pending, or after `k` more
micro-steps. -/
inductive When where
  | atWait
  | after (k : Nat)
deriving DecidableEq, Repr

/-- One input of the environment. -/
structure Input where
  due : When
  event : Event
deriving DecidableEq, Repr

/-- Why the machine stops with a fault. -/
inductive Fault where
  /-- Raised by the copy loops of TRANSFER_CONTROL and by the record walk of CHECK_CLASS when they reach an offset of
  `CACHE` that does not exist, `SIZEOF_DATA_STAGE` or more (rule R80 (1)). Safe: the model stops. -/
  | cacheBounds (off : Nat)
deriving DecidableEq, Repr

/-- Why the machine refuses what it was given. Every refusal is safe: the model stops. -/
inductive Refusal where
  /-- Raised by `exec` for an instruction whose meaning is not written yet. -/
  | notModelled (mnemonic : String)
  /-- Raised by `step`, by TRANSFER_CONTROL and by a nested command for a word that names no operation (rule R127). -/
  | illegalWord (e : DecodeError)
  /-- Raised by TRANSFER_CONTROL, the command or TICK's, when `wLength` exceeds the buffer (rule R83). -/
  | bufferTooSmall
  /-- Raised by the pumps and PIPE_ISR for an operand that names no usable pipe (rule R302, rule R342, rule R117). -/
  | badPipe
  /-- Raised by the arming operations on the pipe the synchronous pump is using (rule R342). -/
  | pipeInSyncPump
  /-- Raised by an interface query whose index is out of range (rule R399). -/
  | queryIndex
  /-- Raised when an operation only the one foreground may start is presented while another is in progress
  (rule R475), and when the context is constructed then (rule R460). -/
  | foregroundBusy
  /-- Raised when a callback or hook issues an operation it may not (rule R440, rule R472, rule R479). -/
  | callbackContract
  /-- Raised when the application changes its tables while a check walks them (rule R479). -/
  | tablesInUse
  /-- Raised when the application writes a host buffer that belongs to an operation or to an armed job (rule R91). -/
  | bufferInUse
deriving DecidableEq, Repr

/-- The state. The fields from `ds` to `res` are the registers of the spec; `cache` and `hbuf` are the memory spaces
`CACHE` and `HBUF`; `cfg` and `tables` are the parameters of the step relation (rule R46), carried in the state so that
statements hold for all of them; `hal` is the environment's side of the HAL; the rest is the model's own. -/
structure State where
  /-- The parameters of rule R8; no step changes them. -/
  cfg : Config
  /-- The application's tables of rule R84. -/
  tables : Tables
  /-- `DS` -/
  ds : DevState
  /-- `CT_PHASE`, `CT_REM`, `CT_OFF`, `CT_BUF` -/
  ct : CtRegs
  /-- `SP_PHASE`, `SP_PIPE`, `SP_REM`, `SP_OFF` -/
  sp : SpRegs
  /-- `EMERG`, `EVT_SOF`, `WAKE_EVT`, `SUSP_REQ`, `RESUME_REQ`, `REARM` -/
  flags : FlagRegs
  /-- `SOFIE`, `SOFIE_SAVE_FG`, `SOFIE_SAVE_ASYNC`, `SOFGEN`, `VBUSEN`, `DISC_IE`, `WAKEIE` -/
  en : EnableRegs
  /-- `TMO`, `NAKCNT`, `SOFCNT`, `ERRCNT` -/
  cnt : CountRegs
  /-- `VID`, `PID`, `DEVADDR`, `CTRL_MPS` -/
  ident : IdentRegs
  /-- `SR` -/
  sr : Setup
  /-- `CACHE_LEN` -/
  cacheLen : Nat
  /-- `NSI` -/
  nsi : Nat
  /-- `SI[0 ..]` -/
  si : List Iface
  /-- `PEND_EP`, `CUR_SI`, `P_OFF` -/
  parse : ParseRegs
  /-- `PIPE[0 ..]` -/
  pipes : List Pipe
  /-- `JOB[0 ..]`; entry 0 is not a job of the spec and is never armed. -/
  jobs : List Job
  /-- `ARG_SETUP`, `ARG_BUF`, `ARG_LEN`, `ARG_CB` -/
  args : Args
  /-- `RES_STATUS`, `RES_BOOL`, `RES_VAL`, `RES_LEN` -/
  res : Results
  /-- `CACHE[0 ..]`, keyed by offset. -/
  cache : List Host.Cell
  /-- The host buffers, keyed by `hostAddr` of the buffer reference and the offset. -/
  hbuf : List Host.Cell
  /-- The HAL. -/
  hal : Hal
  /-- MODEL'S OWN: the micro-steps the foreground operation in progress has still to take; empty when none is. -/
  fg : List Micro
  /-- MODEL'S OWN: the local variable `st` of the pseudocode, the status the last wait ended with. -/
  st : Status
  /-- MODEL'S OWN: what is presented at the command interface and not yet taken. -/
  bus : Option Presented
  /-- MODEL'S OWN: what the environment will do, in order. -/
  inputs : List Input
  /-- MODEL'S OWN: what the application answers to its next notifications, one list of commands for each. -/
  plan : List (List NestedCmd)
  /-- MODEL'S OWN: every output issued so far, the newest first. -/
  trace : List Output
  /-- MODEL'S OWN: how many free bytes have been drawn (log entry 9). -/
  free : Nat
deriving DecidableEq, Repr

/-- A setup record of zeros. -/
def Setup.zero : Setup := ⟨0#8, 0#8, 0#16, 0#16, 0#16, false⟩

/-- A pipe after reset: not allocated and frozen (rule R70); its other fields are DESIGN CHOICE zeros (log entry 2). -/
def Pipe.unallocated : Pipe := ⟨false, .control, false, 0#4, 0, 0, 0#8, true⟩

/-- A job after reset: not armed (rule R70); its other fields are DESIGN CHOICE zeros (log entry 2). -/
def Job.unarmed : Job := ⟨false, false, 0, 0, 0, 0, 0, 0, 0, 0#8⟩

/-- What a read of an `SI` entry that does not exist gives (log entry 23). -/
def Iface.blank : Iface := ⟨0#8, 0#8, 0#8, 0#8, 0#8, 0, [], false⟩

/-- An `SI` entry after reset. DESIGN CHOICE (log entry 2): rule R70 leaves it unspecified; every field is zero, but each of
the `MAX_EP_PER_INTERFACE` slots of `pipe` holds `NOPIPE` (0xFF), the value rule R34 gives a slot with no pipe. -/
def Iface.atReset (slots : Nat) : Iface := { Iface.blank with pipe := List.replicate slots 0xFF#8 }

/-- No interrupt cause. -/
def Causes.none : Causes := ⟨false, false, false, false⟩

/-- A pipe of the HAL before it is configured: every flag clear (rule R461), no cause selected (rule R460). That it is
disabled, frozen, with token SETUP, an empty FIFO, nothing in flight and `byte_count` 0 is a DESIGN CHOICE (log entry 27):
rule R461 puts the rest of the HAL's state at reset outside the block. -/
def HalPipe.disabled : HalPipe :=
  ⟨false, true, .setup, [], false, 0, false, false, false, false, false, 0#5, Causes.none⟩

/-- The HAL at reset: every sticky flag clear and no reset in progress; the three levels are free (rule R461). That the
address every pipe targets is 0, and what `HalPipe.disabled` gives each pipe, is a DESIGN CHOICE (log entry 27). -/
def Hal.atReset (c : Config) (vbus low high : Bool) : Hal :=
  ⟨vbus, low, high, false, false, false, false, false, false, false, false, 0#7,
    List.replicate c.nPipes HalPipe.disabled⟩

/-- The machine after reset (rule R70, rule R460), for any parameters, tables and HAL levels: nothing in progress,
nothing presented, no input, nothing issued. The values rule R70 leaves unspecified are those of log entry 2, what the HAL
holds those of log entry 27. -/
def State.resetWith (c : Config) (t : Tables) (vbus low high : Bool) : State where
  cfg := c
  tables := t
  ds := .unattached
  ct := ⟨.idle, 0, 0, .none⟩
  sp := ⟨.idle, 0, 0, 0, 0⟩
  flags := ⟨false, false, false, false, false, false⟩
  en := ⟨false, false, false, false, false, true, false⟩
  cnt := ⟨0, 0, 0, 0⟩
  ident := ⟨0#16, 0#16, 0#7, c.ctrlMpsInit⟩
  sr := Setup.zero
  cacheLen := 0
  nsi := 0
  si := List.replicate c.maxInterface (Iface.atReset c.maxEp)
  parse := ⟨0, none, 0⟩
  pipes := List.replicate c.nPipes Pipe.unallocated
  jobs := List.replicate c.nPipes Job.unarmed
  args := ⟨0#64, false, 0, 0#16, 0⟩
  res := ⟨0#8, false, 0#16, 0#16⟩
  cache := []
  hbuf := []
  hal := Hal.atReset c vbus low high
  fg := []
  st := 0#8
  bus := none
  inputs := []
  plan := []
  trace := []
  free := 0

/-- The machine right after reset, with the parameters and tables of `CFG-T` and VBUS absent (log entry 1). -/
def State.reset : State := State.resetWith Config.cfgT Tables.cfgT false false false

end Sys2Proof.Machine
end

