-- ==== Sys2Proof/Machine/Flags.lean ====
section
/-! DEFINITION. Status codes (rule R114), the interrupt sources with their pending flags and enables (rule R420), and the
order in which the sequencer presents them (rule R430). -/

namespace Sys2Proof

/-- `Good`, 0x00 (rule R114). -/
def Status.good : Status := 0x00#8

/-- `Timeout`, 0x08: the engine's own; the HAL's bus timeout has the same code (rule R114). -/
def Status.timeout : Status := 0x08#8

/-- `Stall`, 0x20. -/
def Status.stall : Status := 0x20#8

/-- `NoDevice`, 0x40, of the control-pipe taxonomy; no rule produces it (rule R127 (6)). -/
def Status.noDevice : Status := 0x40#8

/-- `NakTimeout`, 0x40, of the data-pipe taxonomy. -/
def Status.nakTimeout : Status := 0x40#8

/-- `DelayTimeout`, 0x80. -/
def Status.delayTimeout : Status := 0x80#8

/-- `Aborted`, 0xFF, for callbacks of ABORT_ALL_PIPES only (rule R127 (5)). -/
def Status.aborted : Status := 0xFF#8

/-- The `Status` of a HAL error: the OR of the one-hot codes of its kinds, DataToggle 0x01, DataPid 0x02, Pid 0x04,
Timeout 0x08, Crc16 0x10 (rule R114). -/
def errorCode (kinds : BitVec 5) : Status := kinds.setWidth 8

end Sys2Proof

namespace Sys2Proof.Machine

/-- The 4-bit code of `DS` (rule R112). -/
def DevState.code : DevState → BitVec 4
  | .unattached => 0#4
  | .attached => 1#4
  | .powered => 2#4
  | .default => 3#4
  | .addressed => 4#4
  | .configured => 5#4
  | .ready => 6#4
  | .error => 7#4
  | .unsupported => 8#4
  | .suspended => 9#4
  | .waitResume => 10#4
  | .vbusLow => 11#4

/-- The state a `DS` code of a dump stands for; codes 12 to 15, and 11 without `HAS_VBUS_LOW`, are refused (rule R113). -/
def DevState.ofCode (hasVbusLow : Bool) (c : BitVec 4) : Option DevState :=
  if c = 0#4 then some .unattached
  else if c = 1#4 then some .attached
  else if c = 2#4 then some .powered
  else if c = 3#4 then some .default
  else if c = 4#4 then some .addressed
  else if c = 5#4 then some .configured
  else if c = 6#4 then some .ready
  else if c = 7#4 then some .error
  else if c = 8#4 then some .unsupported
  else if c = 9#4 then some .suspended
  else if c = 10#4 then some .waitResume
  else if c = 11#4 ∧ hasVbusLow then some .vbusLow
  else none

/-- An interrupt source (rule R420). -/
inductive Source where
  | vbusError | disconnect | roleChange | wakeup | sof
  | pipe (p : Nat)
deriving DecidableEq, Repr

/-- `hal.x[p]`: what the HAL holds of pipe `p`. -/
def State.halPipe (s : State) (p : Nat) : HalPipe := s.hal.pipes.getD p HalPipe.disabled

/-- A pipe interrupts when one of its flags is set whose cause `hal.enable_pipe_int` selected (rule R63, rule R420). -/
def HalPipe.interrupts (h : HalPipe) : Bool :=
  (h.causes.ready && (h.inReady || h.outReady)) || (h.causes.error && h.error != 0#5) ||
  (h.causes.stall && h.stall) || (h.causes.nak && h.nak)

/-- The source the sequencer presents next: the first pending and enabled one in the order of rule R430. While
`SOFGEN = 0` there is no EV_SOF (rule R421), and no pipe is presented, so that no callback of a job fires before the bus
runs again (rule R474; DEDUCED, log entry 30). -/
def State.pendingSource (s : State) : Option Source :=
  if s.hal.vbusError then some .vbusError
  else if s.hal.disc && s.en.discIe then some .disconnect
  else if s.hal.roleChange then some .roleChange
  else if s.hal.wakeup && s.en.wakeie then some .wakeup
  else if !s.en.sofgen then none
  else if s.hal.sof then some .sof
  else (s.cfg.dataPipes.find? fun p => (s.halPipe p).interrupts).map .pipe

end Sys2Proof.Machine
end

