-- ==== Sys2Proof/Machine/Operands.lean ====
section
/-! DEFINITION. Operand assembly (rule R117, rule R118), the request builders (rule R131 to rule R138), the buffer
operand (rule R82), and the fields of descriptor records (rule R120 to rule R124). -/

namespace Sys2Proof.Machine

/-- `LE16(b0, b1)`, `b0` at the lower offset (rule R10). -/
def le16 (b0 b1 : Byte) : Half := b0.setWidth 16 ||| (b1.setWidth 16 <<< 8)

/-- The `SetupRequest` operand assembled from `ARG_SETUP` (rule R117). -/
def assembleSetup (w : SetupWord) (incomplete : Bool) : Setup where
  bmRequestType := wireByte w 0
  bRequest := wireByte w 1
  wValue := le16 (wireByte w 2) (wireByte w 3)
  wIndex := le16 (wireByte w 4) (wireByte w 5)
  wLength := le16 (wireByte w 6) (wireByte w 7)
  incompleteRead := incomplete

/-- The eight bytes of a request on the wire (rule R118). -/
def Setup.wire (r : Setup) : SetupWord :=
  setupWire r.bmRequestType r.bRequest r.wValue r.wIndex r.wLength

/-- `setup_byte(SR, k)`: byte `k` of the SETUP packet (rule R118, rule R213). -/
def Setup.byte (r : Setup) (k : Nat) : Byte := wireByte r.wire k

/-- Bit 7 of `bmRequestType`: 1 means the data stage is IN (rule R119). -/
def Setup.dirIn (r : Setup) : Bool := r.bmRequestType.getLsbD 7

/-- `get_descriptor_device(len, incomplete)` (rule R131). -/
def reqGetDescriptorDevice (len : Half) (incomplete : Bool) : Setup :=
  ⟨0x80#8, 0x06#8, 0x0100#16, 0x0000#16, len, incomplete⟩

/-- `get_descriptor_configuration(idx, len)`: `wValue = 0x0200 | idx` (rule R132). -/
def reqGetDescriptorConfiguration (idx : BitVec 8) (len : Half) : Setup :=
  ⟨0x80#8, 0x06#8, 0x0200#16 ||| idx.setWidth 16, 0#16, len, false⟩

/-- `host_set_address(addr)` (rule R133). -/
def reqSetAddress (addr : BitVec 8) : Setup := ⟨0x00#8, 0x05#8, addr.setWidth 16, 0#16, 0#16, false⟩

/-- `set_configuration(cfg)` (rule R134). -/
def reqSetConfiguration (cfg : BitVec 8) : Setup := ⟨0x00#8, 0x09#8, cfg.setWidth 16, 0#16, 0#16, false⟩

/-- `set_interface(ifnum, alt)` (rule R135). -/
def reqSetInterface (ifnum alt : BitVec 8) : Setup :=
  ⟨0x01#8, 0x0B#8, alt.setWidth 16, ifnum.setWidth 16, 0#16, false⟩

/-- `set_feature_remote_wakeup()` (rule R136). -/
def reqSetFeatureRemoteWakeup : Setup := ⟨0x00#8, 0x03#8, 0x0001#16, 0#16, 0#16, false⟩

/-- `clear_feature_endpoint_halt(epaddr)` (rule R138). -/
def reqClearFeatureEndpointHalt (ep : BitVec 8) : Setup :=
  ⟨0x02#8, 0x01#8, 0x0000#16, ep.setWidth 16, 0#16, false⟩

/-- `get_configuration()` (rule R137). -/
def reqGetConfiguration : Setup := ⟨0x80#8, 0x08#8, 0#16, 0#16, 1#16, false⟩

/-- The capacity of a buffer operand (rule R82, rule R83). -/
def CtBuf.capacity (c : Config) : CtBuf → Nat
  | .none => 0
  | .cache => c.sizeofDataStage
  | .host _ cap => cap

/-- The buffer operand that the buffer select `b` names (rule R82): 0 is `CACHE`, 1 the host buffer. -/
def bufferOperand (b : BitVec 8) (a : Args) : CtBuf :=
  if b = 0#8 then .cache else .host a.buf a.len.toNat

/-- A pipe operand is a data pipe: `1 <= p < N_PIPES` (rule R117). -/
def pipeOk (c : Config) (p : Nat) : Bool := decide (1 ≤ p) && decide (p < c.nPipes)

/-- `NOPIPE` (rule R34). -/
def noPipe : Byte := 0xFF#8

/-- The transfer type of bits 1:0 of an endpoint's attributes (rule R124). -/
def pipeTypeOf (attr : Byte) : PipeType :=
  if attr.extractLsb' 0 2 = 0#2 then .control
  else if attr.extractLsb' 0 2 = 1#2 then .isochronous
  else if attr.extractLsb' 0 2 = 2#2 then .bulk
  else .interrupt

/-- The pipe an endpoint record asks for (rule R124, rule R270): bulk single-banked, every other type double-banked. -/
def endpointPipe (addr attr size0 size1 ival : Byte) : Pipe where
  alloc := true
  typ := pipeTypeOf attr
  dirIn := addr.getLsbD 7
  ep := addr.extractLsb' 0 4
  mps := ((le16 size0 size1).extractLsb' 0 11).toNat
  banks := if pipeTypeOf attr = .bulk then 1 else 2
  interval := ival
  frozen := true

end Sys2Proof.Machine
end

