-- ==== Sys2Proof/Machine/Ops.lean ====
section
/-! DEFINITION. The shared operations over memory, registers and the HAL: the canonical memory, the register tables, the
effect of every HAL action (rule R61, rule R90), the straight-line micro-steps, and raising a status (rule R410). -/

namespace Sys2Proof.Machine

/-! ### One field at a time -/

/-- The field `tables` is replaced. -/
def State.setTables (v : Tables) (s : State) : State := { s with tables := v }

/-- The field `ds` is replaced. -/
def State.setDs (v : DevState) (s : State) : State := { s with ds := v }

/-- The field `ct` is replaced. -/
def State.setCt (v : CtRegs) (s : State) : State := { s with ct := v }

/-- The field `sp` is replaced. -/
def State.setSp (v : SpRegs) (s : State) : State := { s with sp := v }

/-- The field `flags` is replaced. -/
def State.setFlags (v : FlagRegs) (s : State) : State := { s with flags := v }

/-- The field `en` is replaced. -/
def State.setEn (v : EnableRegs) (s : State) : State := { s with en := v }

/-- The field `cnt` is replaced. -/
def State.setCnt (v : CountRegs) (s : State) : State := { s with cnt := v }

/-- The field `ident` is replaced. -/
def State.setIdent (v : IdentRegs) (s : State) : State := { s with ident := v }

/-- The field `sr` is replaced. -/
def State.setSr (v : Setup) (s : State) : State := { s with sr := v }

/-- The field `cacheLen` is replaced. -/
def State.setCacheLen (v : Nat) (s : State) : State := { s with cacheLen := v }

/-- The field `nsi` is replaced. -/
def State.setNsi (v : Nat) (s : State) : State := { s with nsi := v }

/-- The field `si` is replaced. -/
def State.setSi (v : List Iface) (s : State) : State := { s with si := v }

/-- The field `parse` is replaced. -/
def State.setParse (v : ParseRegs) (s : State) : State := { s with parse := v }

/-- The field `pipes` is replaced. -/
def State.setPipes (v : List Pipe) (s : State) : State := { s with pipes := v }

/-- The field `jobs` is replaced. -/
def State.setJobs (v : List Job) (s : State) : State := { s with jobs := v }

/-- The field `args` is replaced. -/
def State.setArgs (v : Args) (s : State) : State := { s with args := v }

/-- The field `res` is replaced. -/
def State.setRes (v : Results) (s : State) : State := { s with res := v }

/-- The field `cache` is replaced. -/
def State.setCache (v : List Host.Cell) (s : State) : State := { s with cache := v }

/-- The field `hbuf` is replaced. -/
def State.setHbuf (v : List Host.Cell) (s : State) : State := { s with hbuf := v }

/-- The field `hal` is replaced. -/
def State.setHal (v : Hal) (s : State) : State := { s with hal := v }

/-- The field `fg` is replaced. -/
def State.setFg (v : List Micro) (s : State) : State := { s with fg := v }

/-- The field `st` is replaced. -/
def State.setSt (v : Status) (s : State) : State := { s with st := v }

/-- The field `bus` is replaced. -/
def State.setBus (v : Option Presented) (s : State) : State := { s with bus := v }

/-- The field `inputs` is replaced. -/
def State.setInputs (v : List Input) (s : State) : State := { s with inputs := v }

/-- The field `plan` is replaced. -/
def State.setPlan (v : List (List NestedCmd)) (s : State) : State := { s with plan := v }

/-- The field `trace` is replaced. -/
def State.setTrace (v : List Output) (s : State) : State := { s with trace := v }

/-- The field `free` is replaced. -/
def State.setFree (v : Nat) (s : State) : State := { s with free := v }

/-! ### Memory: one canonical list of cells -/

/-- What an unlisted address of `CACHE` or of a host buffer reads as. DESIGN CHOICE (log entry 3): rule R70 leaves the
contents after reset unspecified. -/
def unlisted : Byte := 0#8

/-- The byte at an address. -/
def Memory.read : List Host.Cell → Nat → Byte
  | [], _ => unlisted
  | (k, b) :: rest, a => if k = a then b else Memory.read rest a

/-- Write a byte, keeping the canonical form: a cell that would read as an unlisted one is not listed. -/
def Memory.write : List Host.Cell → Nat → Byte → List Host.Cell
  | [], a, v => if v = unlisted then [] else [(a, v)]
  | (k, b) :: rest, a, v =>
    if a < k then (if v = unlisted then (k, b) :: rest else (a, v) :: (k, b) :: rest)
    else if a = k then (if v = unlisted then rest else (a, v) :: rest)
    else (k, b) :: Memory.write rest a v

/-- The canonical form: addresses strictly rising, no cell equal to what an unlisted address reads as. -/
def Memory.wf : List Host.Cell → Bool
  | [] => true
  | (k, b) :: rest => b != unlisted && rest.all (fun c => decide (k < c.1)) && Memory.wf rest

/-- `CACHE[off]` (rule R33). -/
def State.cacheByte (s : State) (off : Nat) : Byte := Memory.read s.cache off

/-- `CACHE[off] <- v`. -/
def State.setCacheByte (off : Nat) (v : Byte) (s : State) : State :=
  s.setCache (Memory.write s.cache off v)

/-- The key of byte `off` of host buffer `b`. A length operand has 16 bits, so an offset is below 65536 and no two
bytes of buffers share a key (log entry 4). -/
def hostAddr (b off : Nat) : Nat := b * 65536 + off

/-- `HBUF(b)[off]` (rule R80 (2)). -/
def State.hostByte (s : State) (b off : Nat) : Byte := Memory.read s.hbuf (hostAddr b off)

/-- `HBUF(b)[off] <- v`. -/
def State.setHostByte (b off : Nat) (v : Byte) (s : State) : State :=
  s.setHbuf (Memory.write s.hbuf (hostAddr b off) v)

/-- Write bytes to a host buffer in increasing offset order; offsets of 65536 and more do not exist (log entry 4). -/
def State.setHostBytes (b : Nat) : Nat → List Byte → State → State
  | _, [], s => s
  | off, v :: rest, s => State.setHostBytes b (off + 1) rest (if off < 65536 then s.setHostByte b off v else s)

/-! ### Register tables -/

/-- Entry `i` of a table is replaced; a table that is too short is filled with `d`. -/
def tableSet {α : Type} (d : α) : List α → Nat → α → List α
  | [], 0, v => [v]
  | [], i + 1, v => d :: tableSet d [] i v
  | _ :: rest, 0, v => v :: rest
  | x :: rest, i + 1, v => x :: tableSet d rest i v

/-- `PIPE[p]` (rule R36). -/
def State.pipe (s : State) (p : Nat) : Pipe := s.pipes.getD p Pipe.unallocated

/-- `PIPE[p] <- r`. -/
def State.setPipe (p : Nat) (r : Pipe) (s : State) : State :=
  s.setPipes (tableSet Pipe.unallocated s.pipes p r)

/-- `JOB[p]` (rule R37). -/
def State.job (s : State) (p : Nat) : Job := s.jobs.getD p Job.unarmed

/-- `JOB[p] <- j`. -/
def State.setJob (p : Nat) (j : Job) (s : State) : State :=
  s.setJobs (tableSet Job.unarmed s.jobs p j)

/-- `SI[i]` (rule R34). -/
def State.iface (s : State) (i : Nat) : Iface := s.si.getD i Iface.blank

/-- `SI[i] <- f`. -/
def State.setIface (i : Nat) (f : Iface) (s : State) : State :=
  s.setSi (tableSet Iface.blank s.si i f)

/-- What the HAL holds of pipe `p` becomes `h`. -/
def State.setHalPipe (p : Nat) (h : HalPipe) (s : State) : State :=
  s.setHal { s.hal with pipes := tableSet HalPipe.disabled s.hal.pipes p h }

/-- `AnyArmed`: some q in 1 .. `N_PIPES-1` has an armed job (44_async_pump.md). -/
def State.anyArmed (s : State) : Bool := s.jobs.tail.any Job.enabled

/-- An output is issued. -/
def State.emit (o : Output) (s : State) : State := s.setTrace (o :: s.trace)

/-- Micro-steps to take next. -/
def State.push (ms : List Micro) (s : State) : State := s.setFg (ms ++ s.fg)

/-- `return` of a TICK: its remaining micro-steps are dropped. -/
def State.ret (s : State) : State := s.setFg []

/-! ### Raising a status (rule R410) -/

/-- The exit label of a control transfer (rule R224). -/
def Micro.isCtExit (m : Micro) : Bool :=
  match m with
  | .ctExit => true
  | _ => false

/-- The exit label of the synchronous pump (rule R322). -/
def Micro.isSpExit (m : Micro) : Bool :=
  match m with
  | .spExit _ _ => true
  | _ => false

/-- `st <- status; goto exit`: the block's exception (rule R410). The micro-steps up to the operation's exit label are
dropped; nothing is saved but the status. -/
def State.raise (isExit : Micro → Bool) (st : Status) (s : State) : State :=
  (s.setSt st).setFg (s.fg.dropWhile fun m => !isExit m)

/-! ### The HAL's side of an action (rule R61, rule R90) -/

/-- Apply `f` to what the HAL holds of pipe `p`. -/
def State.onPipe (p : Nat) (f : HalPipe → HalPipe) (s : State) : State := s.setHalPipe p (f (s.halPipe p))

/-- An action that drives a pipe has no effect on a disabled or unallocated one (rule R422, rule R477 (7)). -/
def State.live (s : State) (p : Nat) : Bool := (s.halPipe p).on && (s.pipe p).alloc

/-- Apply `f` to what the HAL holds of pipe `p`, unless the action has no effect. -/
def State.onLive (p : Nat) (f : HalPipe → HalPipe) (s : State) : State := if s.live p then s.onPipe p f else s

/-- The exception of rule R324 (1): a ready event that is seen in the same poll as `EMERG` counts, although `Disconnect` has
disabled the pipe (rule R422), so the actions that take its packet have their effect while `EMERG` is 1 and that ready
signal is set (DEDUCED, log entry 31). -/
def State.takes (s : State) (p : Nat) (ready : HalPipe → Bool) : Bool :=
  s.live p || (s.flags.emerg && ready (s.halPipe p))

/-- Apply `f` to what the HAL holds of pipe `p`, unless the action that takes a packet has no effect. -/
def State.onTaken (p : Nat) (ready : HalPipe → Bool) (f : HalPipe → HalPipe) (s : State) : State :=
  if s.takes p ready then s.onPipe p f else s

/-- `FIFO[p]` holds at most `PIPE_CAP[p]` bytes (rule R80 (3)). What it holds after more have come is stated by no rule: a
free value (log entry 28). -/
def State.fitFifo (s : State) (p : Nat) (l : List Byte) : List Byte :=
  if l.length ≤ s.cfg.cap p then l else (Config.freeFifo p s.trace.length).take (s.cfg.cap p)

/-- `hal.reset_pipe`: "empties the FIFO, clears the pipe's event flags and leaves the pipe frozen" (rule R61). What it does
beside that is stated by no rule: the mark of a packet in flight is dropped, because the FIFO bank that held the packet is
empty, and the token, `byte_count` and the interrupt causes stay as they were (DESIGN CHOICE, log entry 34). -/
def HalPipe.reset (h : HalPipe) : HalPipe :=
  { h with
    fifo := [], sent := false, setupAck := false, inReady := false, outReady := false, stall := false, nak := false, error := 0#5,
    frozen := true }

/-- The effect of a HAL action on what the HAL holds. `hal.assert_reset` starts a reset, which the environment ends
(rule R153, rule R477 (1)). `hal.send_setup` and `hal.send_out` hand the FIFO bank to the SIE (rule R61); its bytes stay in
the FIFO while the packet is in flight (rule R340, worked example), until the device accepts it (rule R62). `hal.ack_in`
discards what is left of the packet (rule R90). An action on a disabled or unallocated pipe has no effect (rule R422, rule
R477 (7)), except `hal.configure_pipe`, which enables it, and the actions that take a packet as `State.takes` says. What
`hal.configure_pipe` and `hal.disable_pipe` do beside enabling and disabling is stated by no rule: everything else the HAL
holds of the pipe stays as it was, its frozen bit, token, FIFO, packet in flight, `byte_count` and causes too (DESIGN CHOICE,
log entry 33). `hal.reset_pipe` is as `HalPipe.reset` says, and every other pipe action changes only what its rule names
(DESIGN CHOICE, log entry 34). -/
def halEffect (a : HalAction) (s : State) : State :=
  match a with
  | .enableVbus => s
  | .assertReset => s.setHal { s.hal with resetting := true }
  | .startSof => s
  | .stopSof => s
  | .enableDiscInt => s
  | .disableDiscInt => s
  | .armWakeupInt => s
  | .disarmWakeupInt => s
  | .sendResume => s
  | .setAddress d => s.setHal { s.hal with address := d }
  | .configurePipe p _ _ _ _ _ _ => s.onPipe p fun h => { h with on := true }
  | .disablePipe p => s.onPipe p fun h => { h with on := false }
  | .resetPipe p => s.onLive p HalPipe.reset
  | .freezePipe p => s.onLive p fun h => { h with frozen := true }
  | .unfreezePipe p => s.onLive p fun h => { h with frozen := false }
  | .setToken p t => s.onLive p fun h => { h with token := t }
  | .fifoWrite p b => s.onLive p fun h => { h with fifo := s.fitFifo p (h.fifo ++ [b]) }
  | .fifoRead p => s.onTaken p HalPipe.inReady fun h => { h with fifo := h.fifo.tail }
  | .sendSetup p => s.onLive p fun h => { h with sent := true }
  | .sendOut p => s.onLive p fun h => { h with sent := true }
  | .sendIn _ => s
  | .ackSetup p => s.onLive p fun h => { h with setupAck := false }
  | .ackIn p => s.onTaken p HalPipe.inReady fun h => { h with inReady := false, fifo := [] }
  | .ackOut p => s.onTaken p HalPipe.outReady fun h => { h with outReady := false }
  | .ackStall p => s.onLive p fun h => { h with stall := false }
  | .ackNak p => s.onLive p fun h => { h with nak := false }
  | .ackErrors p => s.onLive p fun h => { h with error := 0#5 }
  | .ackConn => s.setHal { s.hal with conn := false }
  | .ackDisc => s.setHal { s.hal with disc := false }
  | .ackRoleChange => s.setHal { s.hal with roleChange := false }
  | .ackVbusError => s.setHal { s.hal with vbusError := false }
  | .ackWakeup => s.setHal { s.hal with wakeup := false }
  | .ackResumeSent => s.setHal { s.hal with resumeSent := false }
  | .enablePipeInt p set => s.onLive p fun h => { h with causes := set }
  | .disablePipeInt p => s.onLive p fun h => { h with causes := Causes.none }

/-- A HAL action is issued and takes effect. -/
def State.doHal (a : HalAction) (s : State) : State := halEffect a (s.emit (.hal a))

/-- What `hal.fifo_read(p)` can read: the FIFO, or nothing where the action has no effect. -/
def State.readable (s : State) (p : Nat) : List Byte := if s.takes p HalPipe.inReady then (s.halPipe p).fifo else []

/-- The byte `hal.fifo_read(p)` returns: the oldest of the FIFO, or a free value where it can read none (log entry 9). -/
def State.fifoHead (s : State) (p : Nat) : Byte :=
  match s.readable p with
  | b :: _ => b
  | [] => Config.freeByte s.free

/-- One more free byte has been drawn, where `fifoHead` is free. -/
def State.drawFree (p : Nat) (s : State) : State :=
  match s.readable p with
  | _ :: _ => s
  | [] => s.setFree (s.free + 1)

/-- `hal.fifo_read(p)` removes the byte it returns (rule R90). -/
def State.fifoPop (p : Nat) (s : State) : State := (s.drawFree p).doHal (.fifoRead p)

/-! ### Register micro-steps and `critical` bodies -/

/-- One field of an `SI` entry is written (rule R267, rule R269). -/
def Iface.set (f : SiField) (x : Iface) : Iface :=
  match f with
  | .ifnum v => { x with ifnum := v }
  | .alt v => { x with alt := v }
  | .cls v => { x with cls := v }
  | .subclass v => { x with subclass := v }
  | .protocol v => { x with protocol := v }
  | .nbEp n => { x with nbEp := n }
  | .pipe e v => { x with pipe := tableSet noPipe x.pipe e v }
  | .configured b => { x with configured := b }

/-- A pipe that is freed: not allocated, frozen. -/
def Pipe.freed (r : Pipe) : Pipe := { r with alloc := false, frozen := true }

/-- The `critical` body of TICK in `Unattached`, "clear status" (rule R152). `NAKCNT` is not in its list, so it keeps its
value, although rule R462 does not name it among the registers the soft reset leaves (DEDUCED, log entry 29). -/
def State.clearContext (s : State) : State :=
  (((((s.setFlags { s.flags with
    emerg := false, rearm := false, suspReq := false, resumeReq := false, wakeEvt := false }).setCnt
    { s.cnt with errcnt := 0, sofcnt := 0 }).setNsi 0).setPipes (s.pipes.map Pipe.freed)).setIdent
    ⟨0#16, 0#16, 0#7, s.cfg.ctrlMpsInit⟩).setCacheLen 0

/-- `Advance(X)`: `critical { if EMERG = 0: DS <- X }` (rule R151). -/
def State.advance (d : DevState) (s : State) : State :=
  s.setDs (if s.flags.emerg then s.ds else d)

/-- Pipe 0 as the end of `Attached` configures it (rule R155). -/
def controlPipe (mps : Nat) : Pipe := ⟨true, .control, false, 0#4, mps, 1, 0#8, true⟩

/-- `critical { SOFIE_SAVE_FG <- SOFIE; SOFIE <- 1 }` (rule R211, rule R303). -/
def State.sofPush (s : State) : State := s.setEn { s.en with sofieSaveFg := s.en.sofie, sofie := true }

/-- `critical { SOFIE <- SOFIE_SAVE_FG }` (rule R224, rule R322). -/
def State.sofPop (s : State) : State := s.setEn { s.en with sofie := s.en.sofieSaveFg }

/-- `SOFGEN <- b`. With `SOFGEN` 0 no start of frame is pending, because one is pending per frame while `SOFGEN` is 1
(rule R420, rule R421; DEDUCED, log entry 30). -/
def State.setSofgen (b : Bool) (s : State) : State :=
  (s.setEn { s.en with sofgen := b }).setHal { s.hal with sof := s.hal.sof && b }

/-- A straight-line micro-step: one register write, one HAL action or one `critical` body (rule R12). The registers and the
byte of memory that the argument of an action names are read in the action's own micro-step (DESIGN CHOICE, log entry 26). -/
def act (a : Act) (s : State) : State :=
  match a with
  | .hal h => s.doHal h
  | .setDs d => s.setDs d
  | .setVbusen b => s.setEn { s.en with vbusen := b }
  | .setSofgen b => s.setSofgen b
  | .setDiscIe b => s.setEn { s.en with discIe := b }
  | .setWakeie b => s.setEn { s.en with wakeie := b }
  | .setRearm b => s.setFlags { s.flags with rearm := b }
  | .clearEvtSof => s.setFlags { s.flags with evtSof := false }
  | .zeroSofcnt => s.setCnt { s.cnt with sofcnt := 0 }
  | .incSofcnt => s.setCnt { s.cnt with sofcnt := s.cnt.sofcnt + 1 }
  | .zeroTmo => s.setCnt { s.cnt with tmo := 0 }
  | .zeroNakcnt => s.setCnt { s.cnt with nakcnt := 0 }
  | .incErrcnt => s.setCnt { s.cnt with errcnt := s.cnt.errcnt + 1 }
  | .ctSetup r => s.setSr r
  | .ctBuf b => s.setCt { s.ct with buf := b }
  | .ctRem n => s.setCt { s.ct with rem := n }
  | .ctOff n => s.setCt { s.ct with off := n }
  | .ctPhase p => s.setCt { s.ct with phase := p }
  | .ctMoveOff n => s.setCt { s.ct with off := s.ct.off + n }
  | .ctMoveRem n => s.setCt { s.ct with rem := s.ct.rem - n }
  | .spPipe p => s.setSp { s.sp with pipe := p }
  | .spBuf b => s.setSp { s.sp with buf := b }
  | .spRem n => s.setSp { s.sp with rem := n }
  | .spOff n => s.setSp { s.sp with off := n }
  | .spPhase p => s.setSp { s.sp with phase := p }
  | .spMoveOff n => s.setSp { s.sp with off := s.sp.off + n }
  | .spMoveRem n => s.setSp { s.sp with rem := s.sp.rem - n }
  | .setFrozen p b => s.setPipe p { s.pipe p with frozen := b }
  | .setAlloc p b => s.setPipe p { s.pipe p with alloc := b }
  | .setPendEp n => s.setParse { s.parse with pendEp := n }
  | .decPendEp => s.setParse { s.parse with pendEp := s.parse.pendEp - 1 }
  | .setCurSi o => s.setParse { s.parse with curSi := o }
  | .setParseOff n => s.setParse { s.parse with off := n }
  | .moveParseOff n => s.setParse { s.parse with off := s.parse.off + n }
  | .setSi i f => s.setIface i ((s.iface i).set f)
  | .jobInflight p n => s.setJob p { s.job p with inflight := n }
  | .latchCacheLen => s.setCacheLen s.ct.off
  | .setStatus st => s.setSt st
  | .resStatus => s.setRes { s.res with status := s.st }
  | .resBool b => s.setRes { s.res with bool := b }
  | .resLen n => s.setRes { s.res with len := BitVec.ofNat 16 n }
  | .fifoSetup k => s.doHal (.fifoWrite Config.pControl (s.sr.byte k))
  | .fifoFromHost p b off => s.doHal (.fifoWrite p (s.hostByte b off))
  | .fifoFromJob p k => s.doHal (.fifoWrite p (s.hostByte (s.job p).buf ((s.job p).processed + k)))
  | .fifoToHost p b off => (s.fifoPop p).setHostByte b off (s.fifoHead p)
  | .critClear => s.clearContext
  | .advance d => s.advance d
  | .critDevaddr d => s.setIdent { s.ident with devaddr := d }
  | .critPipe0 =>
    (s.setPipe Config.pControl (controlPipe s.cfg.ctrlMpsInit)).setIdent { s.ident with ctrlMps := s.cfg.ctrlMpsInit }
  | .critMps m =>
    (s.setPipe Config.pControl { s.pipe Config.pControl with mps := m }).setIdent { s.ident with ctrlMps := m }
  | .critIds =>
    s.setIdent { s.ident with
      vid := le16 (s.cacheByte 8) (s.cacheByte 9), pid := le16 (s.cacheByte 10) (s.cacheByte 11) }
  | .critSofPush => s.sofPush
  | .critSofPop => s.sofPop
  | .critSuspTaken => s.setFlags { s.flags with suspReq := false }
  | .critWakeClear => s.setFlags { s.flags with wakeEvt := false }
  | .critResumeTaken => s.setFlags { s.flags with wakeEvt := false, resumeReq := false }
  | .critNsiZero => s.setNsi 0
  | .critNsiInc => s.setNsi (s.nsi + 1)
  | .critSetPipe p r => s.setPipe p r

/-- Straight-line micro-steps one after another. -/
def acts : List Act → State → State
  | [], s => s
  | a :: rest, s => acts rest (act a s)

/-! ### Outcomes -/

/-- Go on from a next state; a fault or a refusal ends the step. -/
def andThen (o : Host.Outcome State Fault Refusal) (f : State → Host.Outcome State Fault Refusal) :
    Host.Outcome State Fault Refusal :=
  match o with
  | .next s => f s
  | .fault r => .fault r
  | .refused r => .refused r

/-- Run `f` for each number of a list, in order. -/
def chain (f : Nat → State → Host.Outcome State Fault Refusal) : List Nat → State → Host.Outcome State Fault Refusal
  | [], s => .next s
  | p :: ps, s => andThen (f p s) (chain f ps)

end Sys2Proof.Machine
end

