-- ==== Sys2Proof/Machine/Queries.lean ====
section
/-! DEFINITION. The query operations of 45_queries.md (rule R390 to rule R399) and the two latching commands SUSPEND and
RESUME (rule R166, rule R167). Each is one micro-step and may be issued in any state and from either context. -/

namespace Sys2Proof.Machine

/-- `RES_BOOL <- b`. -/
def State.setResBool (b : Bool) (s : State) : State := s.setRes { s.res with bool := b }

/-- `RES_VAL <- v`. -/
def State.setResVal (v : Half) (s : State) : State := s.setRes { s.res with val := v }

/-- IS_HOST_READY (rule R390). -/
def execIsHostReady (s : State) : Host.Outcome State Fault Refusal :=
  .next (s.setResBool (decide (s.ds = .ready)))

/-- IS_HOST_SUSPENDED (rule R391). -/
def execIsHostSuspended (s : State) : Host.Outcome State Fault Refusal :=
  .next (s.setResBool (decide (s.ds = .suspended ∨ s.ds = .waitResume)))

/-- GET_VID (rule R392). -/
def execGetVid (s : State) : Host.Outcome State Fault Refusal := .next (s.setResVal s.ident.vid)

/-- GET_PID (rule R393). -/
def execGetPid (s : State) : Host.Outcome State Fault Refusal := .next (s.setResVal s.ident.pid)

/-- NUM_SUPPORTED_INTERFACES (rule R394). -/
def execNumSupportedInterfaces (s : State) : Host.Outcome State Fault Refusal :=
  .next (s.setResVal (BitVec.ofNat 16 s.nsi))

/-- A query of interface `i`: the value `f` reads from its entry, or the refusal of rule R399. -/
def queryIface (i : BitVec 8) (f : Iface → Byte) (s : State) : Host.Outcome State Fault Refusal :=
  if i.toNat < s.nsi then .next (s.setResVal ((f (s.iface i.toNat)).setWidth 16)) else .refused .queryIndex

/-- INTERFACE_CLASS (rule R395). -/
def execInterfaceClass (i : BitVec 8) (s : State) : Host.Outcome State Fault Refusal := queryIface i Iface.cls s

/-- INTERFACE_SUBCLASS (rule R396). -/
def execInterfaceSubclass (i : BitVec 8) (s : State) : Host.Outcome State Fault Refusal := queryIface i Iface.subclass s

/-- INTERFACE_PROTOCOL (rule R397). -/
def execInterfaceProtocol (i : BitVec 8) (s : State) : Host.Outcome State Fault Refusal := queryIface i Iface.protocol s

/-- INTERFACE_PIPE (rule R398): the pipe of endpoint index `e`, `NOPIPE` where none was allocated. -/
def execInterfacePipe (i e : BitVec 8) (s : State) : Host.Outcome State Fault Refusal :=
  if e.toNat < (s.iface i.toNat).nbEp then queryIface i (fun f => f.pipe.getD e.toNat noPipe) s
  else .refused .queryIndex

/-- SUSPEND: `critical { if DS = Ready: SUSP_REQ <- 1 }` (rule R166). -/
def execSuspend (s : State) : Host.Outcome State Fault Refusal :=
  .next (s.setFlags { s.flags with suspReq := if s.ds = .ready then true else s.flags.suspReq })

/-- RESUME: `critical { if DS = Suspended or DS = WaitResume: RESUME_REQ <- 1 }` (rule R167). -/
def execResume (s : State) : Host.Outcome State Fault Refusal :=
  .next (s.setFlags { s.flags with
    resumeReq := if s.ds = .suspended ∨ s.ds = .waitResume then true else s.flags.resumeReq })

end Sys2Proof.Machine
end

