-- ==== Sys2Proof/Machine/Jobs.lean ====
section
/-! DEFINITION. The procedures of the asynchronous pump (44_async_pump.md): the bodies of `Arm`, of the priming, of
`Complete`, the commands a notification is answered with, and the interrupt entries built on them. In interrupt context
each runs to its end at once; the foreground takes the same pieces as separate micro-steps (`Machine/Micro.lean`). -/

namespace Sys2Proof.Machine

/-- The operand check of SEND_DATA_ASYNC and GET_DATA_ASYNC (rule R342). -/
def armCheck (p : Nat) (dirIn : Bool) (s : State) : Option Refusal :=
  if !(pipeOk s.cfg p && (s.pipe p).alloc && (s.pipe p).dirIn == dirIn) then some .badPipe
  else if s.sp.phase ≠ .idle ∧ s.sp.pipe = p then some .pipeInSyncPump
  else none

/-- The NAK budget `Arm` loads (rule R343). -/
def armBudget (c : Config) (dirIn : Bool) : Nat := if dirIn then c.nakReceiveBudget else c.nakSendBudget

/-- The `critical` body of `Arm` when no job is armed on the pipe (rule R343). -/
def State.armBody (p : Nat) (dirIn : Bool) (buf len cb : Nat) (s : State) : State :=
  (s.setJob p ⟨true, dirIn, len, 0, 0, buf, cb, armBudget s.cfg dirIn, 0, Status.good⟩).setEn
    { s.en with
      sofieSaveAsync := if s.anyArmed then s.en.sofieSaveAsync else s.en.sofie
      sofie := true }

/-- `PrimeOut(p)` (rule R344). The local `n` is computed here, once; `JOB[p].buf` and `JOB[p].processed` are read again by
each `hal.fifo_write`, as the loop of the rule writes it (log entry 26). -/
def primeOutActs (p : Nat) (s : State) : List Act :=
  let n := min ((s.job p).total - (s.job p).processed) (s.pipe p).mps
  (List.range n).map (Act.fifoFromJob p) ++
  [.jobInflight p n, .hal (.setToken p .send), .hal (.unfreezePipe p), .setFrozen p false, .hal (.sendOut p)]

/-- `PrimeIn(p)` (rule R344). -/
def primeInActs (p : Nat) : List Act :=
  [.jobInflight p 0, .hal (.setToken p .receive), .hal (.unfreezePipe p), .setFrozen p false, .hal (.sendIn p)]

/-- Priming the first or the next packet (rule R343, rule R350, rule R351). -/
def primeActs (p : Nat) (dirIn : Bool) (s : State) : List Act :=
  if dirIn then primeInActs p else primeOutActs p s

/-- The causes `Arm` enables: the NAK cause only with `NAK_TIMEOUT_EN` on a pipe not of interrupt type (rule R343). -/
def armCauses (p : Nat) (s : State) : Causes :=
  ⟨true, true, true, s.cfg.nakTimeoutEn && decide ((s.pipe p).typ ≠ .interrupt)⟩

/-- `Arm(p, dir_in)` run to its end (rule R343), with its result in `RES_BOOL`. -/
def State.arm (p : Nat) (dirIn : Bool) (s : State) : State :=
  if (s.job p).enabled then s.setResBool false
  else
    let s1 := (s.armBody p dirIn s.args.buf s.args.len.toNat s.args.cb).doHal (.resetPipe p)
    let s2 := acts (primeActs p dirIn s1) s1
    (s2.doHal (.enablePipeInt p (armCauses p s2))).setResBool true

/-- An arming command run to its end: the operand check, then `Arm` (rule R340, rule R341). -/
def armNow (p : Nat) (dirIn : Bool) (s : State) : Host.Outcome State Fault Refusal :=
  match armCheck p dirIn s with
  | some r => .refused r
  | none => .next (s.arm p dirIn)

/-- The `critical` body of `Complete(p, st)` for a job that is armed (rule R352). -/
def State.completeBody (p : Nat) (st : Status) (s : State) : State :=
  let s1 := s.doHal (.disablePipeInt p)
  let s2 := s1.doHal (if st ≠ Status.good then .resetPipe p else .freezePipe p)
  let s3 := s2.setPipe p { s2.pipe p with frozen := true }
  let s4 := s3.setJob p { s3.job p with enabled := false, status := st, inflight := 0 }
  s4.setEn { s4.en with sofie := if s4.anyArmed then s4.en.sofie else s4.en.sofieSaveAsync }

/-- `Complete(p, st)` with what runs its callback (rule R352): nothing when the job is already completed. -/
def completeWith (notify : Output → State → Host.Outcome State Fault Refusal) (p : Nat) (st : Status) (s : State) :
    Host.Outcome State Fault Refusal :=
  if (s.job p).enabled then notify (.callback (s.job p).cb st (s.job p).processed) (s.completeBody p st) else .next s

/-- ABORT_ALL_PIPES run to its end, with what runs a callback (rule R360). -/
def abortWith (notify : Output → State → Host.Outcome State Fault Refusal) (s : State) :
    Host.Outcome State Fault Refusal :=
  chain (fun p => completeWith notify p Status.aborted) s.cfg.dataPipes s

/-- One command that a callback or hook issues, run to its end in the context of the notification (rule R356,
rule R440): the arming commands, SUSPEND, RESUME, the queries and ABORT_ALL_PIPES may be issued; a TICK, a blocking
operation, a check or an interrupt entry may not (rule R472; 93_implementation_defined.md U7, U13). -/
def runNested (notify : Output → State → Host.Outcome State Fault Refusal) (i : Instr) (s : State) :
    Host.Outcome State Fault Refusal :=
  match i with
  | .sendDataAsync p => armNow p.toNat false s
  | .getDataAsync p => armNow p.toNat true s
  | .abortAllPipes => abortWith notify s
  | .suspend => execSuspend s
  | .resume => execResume s
  | .isHostReady => execIsHostReady s
  | .isHostSuspended => execIsHostSuspended s
  | .getVid => execGetVid s
  | .getPid => execGetPid s
  | .numSupportedInterfaces => execNumSupportedInterfaces s
  | .interfaceClass i => execInterfaceClass i s
  | .interfaceSubclass i => execInterfaceSubclass i s
  | .interfaceProtocol i => execInterfaceProtocol i s
  | .interfacePipe i e => execInterfacePipe i e s
  | .tick => .refused .callbackContract
  | .transferControl _ => .refused .callbackContract
  | .sendData _ => .refused .callbackContract
  | .getData _ => .refused .callbackContract
  | .checkVidPid => .refused .callbackContract
  | .checkClass => .refused .callbackContract
  | .pipeIsr _ => .refused .callbackContract
  | .evSof => .refused .callbackContract
  | .evDisconnect => .refused .callbackContract
  | .evRoleChange => .refused .callbackContract
  | .evVbusError => .refused .callbackContract
  | .evWakeup => .refused .callbackContract
  | .getDescriptorDevice _ _ => .refused .callbackContract
  | .getDescriptorConfiguration _ _ => .refused .callbackContract
  | .hostSetAddress _ => .refused .callbackContract
  | .setConfiguration _ => .refused .callbackContract
  | .setInterface _ _ => .refused .callbackContract
  | .setFeatureRemoteWakeup => .refused .callbackContract
  | .clearFeatureEndpointHalt _ => .refused .callbackContract
  | .getConfiguration => .refused .callbackContract

/-- A nested command: its operand registers are written, its word is decoded, it is run. -/
def nestedWith (notify : Output → State → Host.Outcome State Fault Refusal) (c : NestedCmd) (s : State) :
    Host.Outcome State Fault Refusal :=
  match decodeCmd c.word with
  | .error e => .refused (.illegalWord e)
  | .ok i => runNested notify i (s.setArgs c.args)

/-- The commands of one answer, in order. -/
def answerWith (notify : Output → State → Host.Outcome State Fault Refusal) :
    List NestedCmd → State → Host.Outcome State Fault Refusal
  | [], s => .next s
  | c :: rest, s => andThen (nestedWith notify c s) (answerWith notify rest)

/-- A notification in interrupt context (rule R64, rule R436): it is issued, and the commands the application answers
with run nested, to their end. The application's next answer is the head of `plan`; the first argument bounds the
nesting, and as each notification takes one answer, the number of answers left is enough. -/
def notifyUpTo : Nat → Output → State → Host.Outcome State Fault Refusal
  | 0, o, s => .next (s.emit o)
  | k + 1, o, s =>
    match (s.emit o).plan with
    | [] => .next (s.emit o)
    | answer :: rest => answerWith (notifyUpTo k) answer ((s.emit o).setPlan rest)

/-- A notification, with as much nesting as there are answers. -/
def notify (o : Output) (s : State) : Host.Outcome State Fault Refusal := notifyUpTo s.plan.length o s

/-- `Complete(p, st)` in interrupt context or inside a `critical` body (rule R352). -/
def complete (p : Nat) (st : Status) (s : State) : Host.Outcome State Fault Refusal := completeWith notify p st s

/-! ### The interrupt entries -/

/-- One start of frame for a job: its `timeout_cnt` counts while it is armed (rule R421). -/
def Job.countSof (j : Job) : Job :=
  if j.enabled && decide (j.timeoutCnt < 0xFFFF) then { j with timeoutCnt := j.timeoutCnt + 1 } else j

/-- One start of frame for the jobs `1 .. N_PIPES-1`. -/
def countJobs : List Job → List Job
  | [] => []
  | j0 :: rest => j0 :: rest.map Job.countSof

/-- EV_SOF (rule R421): `EVT_SOF` always, the bookkeeping only while `SOFIE = 1`; the entry clears its own pending flag
(rule R420). -/
def evSofBody (s : State) : State :=
  (((s.setHal { s.hal with sof := false }).setFlags { s.flags with evtSof := true }).setCnt
    (if s.en.sofie && decide (s.cnt.tmo < 0xFFFF) then { s.cnt with tmo := s.cnt.tmo + 1 } else s.cnt)).setJobs
    (if s.en.sofie then countJobs s.jobs else s.jobs)

/-- The ack action of a cause of `Disconnect` (rule R422). -/
def Cause.ack : Cause → HalAction
  | .disconnect => .ackDisc
  | .roleChange => .ackRoleChange
  | .vbusError => .ackVbusError

/-- A pipe freed by `Disconnect`: `hal.disable_pipe`, `alloc <- 0`, `frozen <- 1`, if it is allocated (rule R422). -/
def State.freeIfAlloc (s : State) (p : Nat) : State :=
  if (s.pipe p).alloc then (s.doHal (.disablePipe p)).setPipe p (s.pipe p).freed else s

/-- The state `Disconnect` writes to `DS` (rule R422, rule R424). -/
def disconnectState (c : Config) (cause : Cause) : DevState :=
  if cause = .vbusError ∧ c.hasVbusLow then .vbusLow else .unattached

/-- `Disconnect(cause)`, one `critical` body, callbacks included (rule R422). -/
def disconnect (cause : Cause) (s : State) : Host.Outcome State Fault Refusal :=
  andThen (abortWith notify ((s.setFlags { s.flags with emerg := true }).doHal cause.ack)) fun s1 =>
    let s2 := (List.range s1.cfg.nPipes).foldl State.freeIfAlloc (s1.setNsi 0)
    .next (s2.setDs (disconnectState s2.cfg cause))

/-- EV_WAKEUP (rule R425). -/
def evWakeupBody (s : State) : State :=
  (s.setFlags { s.flags with wakeEvt := true }).doHal .ackWakeup

/-- A ready event on an OUT job (rule R350). -/
def outReadyEvent (p : Nat) (s : State) : Host.Outcome State Fault Refusal :=
  let s1 := s.doHal (.ackOut p)
  let j := s1.job p
  let s2 := s1.setJob p { j with processed := j.processed + j.inflight, inflight := 0 }
  if (s2.job p).processed = (s2.job p).total then complete p Status.good s2 else .next (acts (primeOutActs p s2) s2)

/-- The copy of one received packet into the job's buffer (rule R351). -/
def receiveActs (p : Nat) (take : Nat) (s : State) : List Act :=
  (List.range take).map fun k => Act.fifoToHost p (s.job p).buf ((s.job p).processed + k)

/-- A ready event on an IN job (rule R351). -/
def inReadyEvent (p : Nat) (s : State) : Host.Outcome State Fault Refusal :=
  let s1 := (s.doHal (.freezePipe p))
  let s2 := s1.setPipe p { s1.pipe p with frozen := true }
  let cnt := (s2.halPipe p).byteCount
  let j := s2.job p
  let take := min cnt (j.total - j.processed)
  let s3 := acts (receiveActs p take s2) s2
  let s4 := s3.setJob p { j with processed := j.processed + take }
  let s5 := s4.doHal (.ackIn p)
  if cnt < (s5.pipe p).mps ∨ (s5.job p).processed = (s5.job p).total then complete p Status.good s5
  else .next (acts (primeInActs p) s5)

/-- A NAK on a pipe whose job counts them (rule R345). -/
def nakEvent (p : Nat) (s : State) : Host.Outcome State Fault Refusal :=
  let s1 := s.doHal (.ackNak p)
  let s2 := s1.setJob p { s1.job p with nak := (s1.job p).nak - 1 }
  if (s2.job p).nak = 0 then complete p Status.nakTimeout s2 else .next s2

/-- PIPE_ISR(p), one cause per entry: ready, error, STALL, NAK (rule R345). -/
def pipeIsr (p : Nat) (s : State) : Host.Outcome State Fault Refusal :=
  let j := s.job p
  let h := s.halPipe p
  if !j.enabled then .next (s.doHal (.disablePipeInt p))
  else if !j.dirIn && h.outReady then outReadyEvent p s
  else if j.dirIn && h.inReady then inReadyEvent p s
  else if h.error ≠ 0#5 then complete p (errorCode h.error) (s.doHal (.ackErrors p))
  else if h.stall then complete p Status.stall (s.doHal (.ackStall p))
  else if s.cfg.nakTimeoutEn && decide ((s.pipe p).typ ≠ .interrupt) && h.nak then nakEvent p s
  else .next s

/-- The entry of an interrupt source. An entry saves nothing and switches nothing: the foreground keeps its phase
registers and goes on at its next micro-step (rule R435). -/
def enter (src : Source) (s : State) : Host.Outcome State Fault Refusal :=
  match src with
  | .vbusError => disconnect .vbusError s
  | .disconnect => disconnect .disconnect s
  | .roleChange => disconnect .roleChange s
  | .wakeup => .next (evWakeupBody s)
  | .sof => .next (evSofBody s)
  | .pipe p => pipeIsr p s

/-- The interrupt sequencer presents the next pending source, if there is one (rule R430). -/
def sequencer (s : State) : Host.Outcome State Fault Refusal :=
  match s.pendingSource with
  | some src => enter src s
  | none => .next s

end Sys2Proof.Machine
end

