-- ==== Sys2Proof/Machine/Programs.lean ====
section
/-! DEFINITION. The micro-steps of the foreground operations, in the order their pseudocode writes them (rule R12,
rule R94): TRANSFER_CONTROL (41_control_transfer.md), the synchronous pump (43_sync_pump.md), CHECK_CLASS
(42_descriptor_parser.md), ABORT_ALL_PIPES (rule R360), `BusReset` (rule R153), and TICK in each state
(40_port_fsm.md). -/

namespace Sys2Proof.Machine

/-- A HAL action as a micro-step. -/
def halStep (a : HalAction) : Micro := .act (.hal a)

/-- Straight-line micro-steps. -/
def actSteps (l : List Act) : List Micro := l.map .act

/-! ### TRANSFER_CONTROL -/

/-- A control transfer from its entry to its exit label: the refusal of rule R83, the entry of rule R211, the wait for
one SOF of rule R212, the SETUP phase of rule R213, then the choice of rule R214; `st` is left for the caller. -/
def ctProg (r : Setup) (b : CtBuf) : List Micro :=
  .ctCheck r b ::
  actSteps [.ctSetup r, .ctBuf b, .ctRem 0, .ctOff 0, .critSofPush, .ctPhase .waitSof, .clearEvtSof] ++
  [.ctPollSof] ++
  actSteps ([.ctPhase .setup, .hal (.resetPipe Config.pControl), .hal (.setToken Config.pControl .setup)] ++
    (List.range 8).map Act.fifoSetup ++
    [.hal (.unfreezePipe Config.pControl), .setFrozen Config.pControl false, .hal (.sendSetup Config.pControl), .zeroTmo]) ++
  [.ctPoll .setupAck, halStep (.ackSetup Config.pControl), .ctStage, .ctExit]

/-- One IN packet of the data stage, up to its arrival (rule R215). -/
def ctInPacket : List Micro :=
  actSteps [.ctPhase .dataIn, .hal (.unfreezePipe Config.pControl), .hal (.sendIn Config.pControl), .zeroTmo] ++
  [.ctPoll .dataIn, halStep (.freezePipe Config.pControl), .ctInTake]

/-- The OUT status stage (rule R219). -/
def ctStatusOut : List Micro :=
  actSteps [.ctPhase .statusOut, .hal (.setToken Config.pControl .send), .hal (.unfreezePipe Config.pControl),
    .hal (.sendOut Config.pControl), .zeroTmo] ++
  [.ctPoll .statusOut] ++ actSteps [.hal (.ackOut Config.pControl), .setStatus Status.good]

/-- One OUT packet of `n` bytes (rule R220). -/
def ctOutPacket (n : Nat) : List Micro :=
  .act (.ctPhase .dataOut) :: (List.range n).map Micro.ctWriteByte ++
  actSteps [.hal (.unfreezePipe Config.pControl), .hal (.sendOut Config.pControl), .zeroTmo] ++
  [.ctPoll .dataOut] ++
  actSteps [.hal (.ackOut Config.pControl), .ctMoveOff n, .ctMoveRem n] ++ [.ctOutLoop]

/-- The IN status stage (rule R221). -/
def ctStatusIn : List Micro :=
  actSteps [.ctPhase .statusIn, .hal (.setToken Config.pControl .receive), .hal (.unfreezePipe Config.pControl),
    .hal (.sendIn Config.pControl), .zeroTmo] ++
  [.ctPoll .statusIn] ++ actSteps [.hal (.ackIn Config.pControl), .setStatus Status.good]

/-- The keep-alive wait between two IN packets (rule R218). -/
def ctKeepAlive : List Micro := actSteps [.ctPhase .keepAlive, .clearEvtSof] ++ [.ctPollSof]

/-- The exit of a control transfer after its status is known (rule R224). `CT_BUF` is none whenever no control transfer
is in progress (rule R23). -/
def ctExitSteps (st : Status) : List Micro :=
  (if st ≠ Status.good then [.ctAckErrors, .ctAckStall, halStep (.resetPipe Config.pControl)]
   else [halStep (.freezePipe Config.pControl)]) ++
  [.act (.setFrozen Config.pControl true), .ctLen] ++
  actSteps [.ctPhase .idle, .ctRem 0, .ctOff 0, .ctBuf .none, .critSofPop]

/-! ### The synchronous pump -/

/-- The entry common to both operations (rule R303), then their loop and exit label (rule R300, rule R310); the result
registers are written last (rule R322). -/
def spProg (p : Nat) (dirIn : Bool) (buf len : Nat) : List Micro :=
  actSteps [.spPipe p, .spBuf buf, .spRem len, .spOff 0, .critSofPush,
    .spPhase (if dirIn then .receiving else .sending), .hal (.setToken p (if dirIn then .receive else .send))] ++
  [if dirIn then .spInLoop p else .spOutLoop p, .spExit p dirIn, .act .resStatus]

/-- One OUT packet of `n` bytes from host buffer `b` at offset `off` (rule R300). -/
def spOutPacket (p b off n : Nat) : List Micro :=
  actSteps ((List.range n).map (fun k => Act.fifoFromHost p b (off + k)) ++
    [.hal (.unfreezePipe p), .setFrozen p false, .hal (.sendOut p), .zeroTmo, .zeroNakcnt]) ++
  [.spPoll p false] ++ actSteps [.hal (.ackOut p), .spMoveOff n, .spMoveRem n] ++ [.spOutLoop p]

/-- One IN packet, up to its arrival (rule R310). -/
def spInPacket (p : Nat) : List Micro :=
  actSteps [.spPhase .receiving, .hal (.unfreezePipe p), .setFrozen p false, .hal (.sendIn p), .zeroTmo, .zeroNakcnt] ++
  [.spPoll p true] ++ actSteps [.hal (.freezePipe p), .setFrozen p true] ++ [.spInTake p]

/-- The keep-alive wait between two IN packets (rule R311). -/
def spKeepAlive : List Micro := actSteps [.spPhase .keepAlive, .clearEvtSof] ++ [.spPollSof]

/-- The exit of the synchronous pump after its status is known (rule R322). -/
def spExitSteps (p : Nat) (dirIn : Bool) (st : Status) : List Micro :=
  (if st ≠ Status.good then [.spAckErrors p, .spAckStall p, halStep (.resetPipe p)] else [halStep (.freezePipe p)]) ++
  [.act (.setFrozen p true), .spLen dirIn] ++
  actSteps [.spPhase .idle, .spPipe 0, .spRem 0, .spOff 0, .spBuf 0, .critSofPop]

/-! ### ABORT_ALL_PIPES and `BusReset` -/

/-- ABORT_ALL_PIPES in the foreground: the data pipes, ascending (rule R360). -/
def abortProg (c : Config) : List Micro := c.dataPipes.map .abortPipe

/-- `BusReset()` up to its wait (rule R153). -/
def busResetProg (c : Config) (who : ResetFor) : List Micro :=
  abortProg c ++ actSteps [.hal .assertReset, .critDevaddr 0#7, .hal (.setAddress 0#7)] ++ [.pollReset who]

/-! ### CHECK_CLASS -/

/-- The start of CHECK_CLASS (rule R264). -/
def parseProg (c : Config) (who : ParseFor) : List Micro :=
  [.act .critNsiZero] ++ (if c.autoCfgEndpoint then c.dataPipes.map .freePipe else []) ++
  actSteps [.setPendEp 0, .setCurSi none, .setParseOff 0] ++ [.parseTotal who]

/-- The writes that make entry `i` of `SI` from the INTERFACE record at `off` (rule R267). -/
def ifaceActs (s : State) (i off : Nat) : List Act :=
  [Act.setSi i (.ifnum (s.cacheByte (off + 2))), .setSi i (.alt (s.cacheByte (off + 3))),
   .setSi i (.cls (s.cacheByte (off + 5))), .setSi i (.subclass (s.cacheByte (off + 6))),
   .setSi i (.protocol (s.cacheByte (off + 7))),
   .setSi i (.nbEp (min (s.cacheByte (off + 4)).toNat s.cfg.maxEp))] ++
  (List.range s.cfg.maxEp).map (fun e => Act.setSi i (.pipe e noPipe)) ++
  [.setSi i (.configured false), .critNsiInc]

/-- The pipe that `AllocPipe` takes for an endpoint of packet size `size` (rule R270): `BIG_PIPE` for one that exceeds
`SMALL_CAP`, otherwise the lowest free data pipe; none if it is taken or there is none. -/
def choosePipe (s : State) (size : Nat) : Option Nat :=
  if s.cfg.smallCap < size then
    if (s.pipe s.cfg.bigPipe).alloc then none else some s.cfg.bigPipe
  else s.cfg.dataPipes.find? fun q => !(s.pipe q).alloc

/-- The endpoint record at `off` as the pipe it asks for (rule R270). -/
def recordPipe (s : State) (off : Nat) : Pipe :=
  endpointPipe (s.cacheByte (off + 2)) (s.cacheByte (off + 3)) (s.cacheByte (off + 4)) (s.cacheByte (off + 5))
    (s.cacheByte (off + 6))

/-- `SI[i].pipe[e] <- AllocPipe(off)` (rule R269, rule R270). -/
def allocSteps (s : State) (i e off : Nat) : List Act :=
  let r := recordPipe s off
  match choosePipe s r.mps with
  | none => [.setSi i (.pipe e noPipe)]
  | some p =>
    [.critSetPipe p r, .hal (.configurePipe p r.typ r.dirIn r.ep r.mps r.banks r.interval),
     .setSi i (.pipe e (BitVec.ofNat 8 p))]

/-- Whether every one of the `nb_ep` endpoints of an entry has a pipe (rule R269). -/
def Iface.allPiped (f : Iface) : Bool := (List.range f.nbEp).all fun e => f.pipe.getD e noPipe != noPipe

/-- Whether the triple of the INTERFACE record at `off` is registered: all three bytes equal, no wildcard (rule R126). -/
def classMatch (s : State) (off : Nat) : Bool :=
  s.tables.classes.contains (s.cacheByte (off + 5), s.cacheByte (off + 6), s.cacheByte (off + 7))

/-! ### CHECK_VID_PID -/

/-- Set membership in `VIDPID_TABLE` (rule R260, rule R261): some group has the VID and lists the PID; a group whose
count runs past the end is cut there. The first argument bounds the number of groups. -/
def vidPidIn : Nat → Half → Half → List Half → Bool
  | 0, _, _, _ => false
  | k + 1, v, d, vid :: n :: rest =>
    (vid == v && (rest.take n.toNat).contains d) || vidPidIn k v d (rest.drop n.toNat)
  | _ + 1, _, _, _ => false

/-- The result of CHECK_VID_PID on `CACHE` and the table (rule R260). -/
def checkVidPid (s : State) : Bool :=
  vidPidIn s.tables.vidPid.length (le16 (s.cacheByte 8) (s.cacheByte 9)) (le16 (s.cacheByte 10) (s.cacheByte 11))
    s.tables.vidPid

/-! ### TICK -/

/-- The packet size of the device descriptor just fetched can be used: it was fetched and is legal (rule R157;
93_implementation_defined.md U4, log entry 7). -/
def mpsUsable (s : State) : Bool := decide (8 ≤ s.cacheLen) && legalMps (s.cacheByte 7).toNat

/-- The first descriptor fetch (rule R157). -/
def firstFetch (c : Config) : Setup := reqGetDescriptorDevice (BitVec.ofNat 16 c.firstDescLen) true

/-- TICK in `Attached` once a connect event or `REARM` is seen, up to the wait of `BusReset` (rule R155). -/
def attachedProg (c : Config) : List Micro :=
  .ifConnAck :: actSteps [.setRearm false, .hal .disableDiscInt, .setDiscIe false] ++ busResetProg c .attached ++
  actSteps [.hal .startSof, .setSofgen true, .zeroSofcnt, .clearEvtSof] ++ [.pollWindow] ++
  actSteps [.hal .enableDiscInt, .setDiscIe true] ++ [.recheckDisc, .retIfEmerg] ++
  actSteps [.critPipe0, .hal (.configurePipe Config.pControl .control false 0#4 c.ctrlMpsInit 1 0#8), .zeroSofcnt,
    .advance .powered]

/-- The micro-steps of one TICK in state `d` (rule R150, rule R152 to rule R169). -/
def tickProg (c : Config) (d : DevState) : List Micro :=
  match d with
  | .unattached =>
    [.act .critClear, .ifSofgen, .ifWakeie, .ifDiscOff, halStep .enableVbus, .act (.setVbusen true), .ifVbusHigh]
  | .attached => [.attachedStart]
  | .powered => [.poweredCount, .poweredCheck]
  | .default => ctProg (firstFetch c) .cache ++ [.retIfEmerg, .defaultFetched]
  | .addressed => ctProg (reqGetDescriptorDevice 18#16 false) .cache ++ [.retIfEmerg, .addressedFetched]
  | .configured =>
    ctProg (reqGetDescriptorConfiguration 0#8 (BitVec.ofNat 16 (min c.sizeofDataStage 0xFFFF))) .cache ++
    [.retIfEmerg, .configuredFetched]
  | .ready => [.readyCheck]
  | .error => if c.errorRestart then [.act (.advance .unattached)] else []
  | .unsupported => []
  | .suspended =>
    actSteps [.hal .stopSof, .setSofgen false, .critWakeClear] ++ [.ifWakeupAck] ++
    actSteps [.hal .armWakeupInt, .setWakeie true, .advance .waitResume]
  | .waitResume => [.waitResumeStart]
  | .vbusLow => [.act (.setDs .unattached)]

/-- The resume handshake of TICK in `WaitResume` (rule R168). -/
def resumeProg : List Micro :=
  actSteps [.critResumeTaken, .hal .disarmWakeupInt, .setWakeie false, .hal .startSof, .setSofgen true,
    .hal .sendResume] ++ [.pollResume] ++ actSteps [.hal .ackResumeSent, .advance .ready]

/-- The second half of TICK in `Default`, after the second bus reset (rule R157). -/
def setAddressProg (c : Config) (mps : Nat) : List Micro :=
  actSteps [.critMps mps, .hal (.configurePipe Config.pControl .control false 0#4 mps 1 0#8)] ++
  ctProg (reqSetAddress (c.deviceAddress.setWidth 8)) .cache ++ [.retIfEmerg, .defaultAddressed]

end Sys2Proof.Machine
end

