-- ==== Sys2Proof/Machine/Micro.lean ====
section
/-! DEFINITION. What one micro-step of the foreground does (rule R12, rule R13). A micro-step has been taken off `fg`
when `micro` runs it; what comes next is pushed in front of the rest. -/

namespace Sys2Proof.Machine

/-- The result of a micro-step. A pending poll leaves the foreground waiting: polling again before the environment has
changed something gives the same (rule R13). -/
inductive MicroResult where
  | ran (s : State)
  | pending (s : State)
  | fault (r : Fault)
  | refused (r : Refusal)
deriving Repr

/-- An atomic piece as a micro-step. -/
def MicroResult.ofOutcome : Host.Outcome State Fault Refusal → MicroResult
  | .next s => .ran s
  | .fault r => .fault r
  | .refused r => .refused r

/-- Go on with these micro-steps first. -/
def thenDo (ms : List Micro) (s : State) : MicroResult := .ran (s.push ms)

/-- The poll returns Pending: the wait goes on. -/
def stay (m : Micro) (s : State) : MicroResult := .pending (s.push [m])

/-- The poll changed something and the wait goes on. -/
def again (m : Micro) (s : State) : MicroResult := .ran (s.push [m])

/-- These micro-steps if the condition holds, none otherwise. -/
def onlyIf (b : Bool) (ms : List Micro) (s : State) : MicroResult := if b then thenDo ms s else .ran s

/-! ### The waits -/

/-- A wait that ends with a SOF event, or with `Timeout` on an emergency: rule R212, the keep-alive of rule R218 and
rule R311. -/
def pollSof (m : Micro) (isExit : Micro → Bool) (s : State) : MicroResult :=
  if s.flags.evtSof then .ran s
  else if s.flags.emerg then .ran (s.raise isExit Status.timeout)
  else stay m s

/-- The ready signal of a control wait (rule R213, rule R215, rule R219 to rule R221). -/
def CtWaitFor.ready (w : CtWaitFor) (h : HalPipe) : Bool :=
  match w with
  | .setupAck => h.setupAck
  | .dataIn => h.inReady
  | .dataOut => h.outReady
  | .statusOut => h.outReady
  | .statusIn => h.inReady

/-- The budget of a control wait (rule R223). -/
def CtWaitFor.budget (w : CtWaitFor) (c : Config) : Nat :=
  match w with
  | .setupAck => c.ctrlSetupTimeout
  | .dataIn => c.ctrlDataTimeout
  | .dataOut => c.ctrlDataTimeout
  | .statusOut => c.ctrlStatusTimeout
  | .statusIn => c.ctrlStatusTimeout

/-- One poll of `CtWait` (rule R222): ready, emergency, budget, pipe error, STALL, in this order. -/
def ctPoll (w : CtWaitFor) (s : State) : MicroResult :=
  let h := s.halPipe Config.pControl
  if w.ready h then .ran (s.setSt Status.good)
  else if s.flags.emerg then .ran (s.raise Micro.isCtExit Status.timeout)
  else if s.cfg.timeoutDetection && decide (w.budget s.cfg ≤ s.cnt.tmo) then .ran (s.raise Micro.isCtExit Status.timeout)
  else if h.error ≠ 0#5 then .ran (s.raise Micro.isCtExit (errorCode h.error))
  else if h.stall then .ran (s.raise Micro.isCtExit Status.stall)
  else stay (.ctPoll w) s

/-- The NAK budget of a packet wait (rule R300, rule R310). -/
def nakBudget (c : Config) (dirIn : Bool) : Nat := if dirIn then c.nakReceiveBudget else c.nakSendBudget

/-- One poll of `SpWait` (rule R320): ready, emergency, delay timeout, pipe error, STALL, NAK, in this order. A NAK that
is counted is acknowledged (rule R321). -/
def spPoll (p : Nat) (dirIn : Bool) (s : State) : MicroResult :=
  let h := s.halPipe p
  if (if dirIn then h.inReady else h.outReady) then .ran (s.setSt Status.good)
  else if s.flags.emerg then .ran (s.raise Micro.isSpExit Status.timeout)
  else if s.cfg.delayTimeoutEn && decide (s.cfg.delayTimeoutSof ≤ s.cnt.tmo) then
    .ran (s.raise Micro.isSpExit Status.delayTimeout)
  else if h.error ≠ 0#5 then .ran (s.raise Micro.isSpExit (errorCode h.error))
  else if h.stall then .ran (s.raise Micro.isSpExit Status.stall)
  else if s.cfg.nakTimeoutEn && decide ((s.pipe p).typ ≠ .interrupt) && h.nak then
    let s1 := s.doHal (.ackNak p)
    let s2 := s1.setCnt { s1.cnt with nakcnt := s1.cnt.nakcnt + 1 }
    if nakBudget s.cfg dirIn ≤ s2.cnt.nakcnt then .ran (s2.raise Micro.isSpExit Status.nakTimeout)
    else again (.spPoll p dirIn) s2
  else stay (.spPoll p dirIn) s

/-- The wait of `BusReset` (rule R153): `Done`, or `Cancelled`, on which `Attached` enables the disconnect interrupt
again (rule R155) and both callers end the TICK. -/
def pollReset (who : ResetFor) (s : State) : MicroResult :=
  if !s.hal.resetting then .ran s
  else if s.flags.emerg then
    match who with
    | .attached => thenDo (actSteps [.hal .enableDiscInt, .setDiscIe true]) s.ret
    | .second => .ran s.ret
  else stay (.pollReset who) s

/-- One pass of the window loop of `Attached`, which is one poll (rule R155). -/
def pollWindow (s : State) : MicroResult :=
  if s.cnt.sofcnt = s.cfg.attachWindow then .ran s
  else if s.flags.emerg then thenDo (actSteps [.hal .enableDiscInt, .setDiscIe true]) s.ret
  else if s.flags.evtSof then
    let s1 := act .incSofcnt (act .clearEvtSof s)
    again .pollWindow (if s1.hal.disc then s1.doHal .ackDisc else s1)
  else stay .pollWindow s

/-- The wait for the downstream resume of `WaitResume` (rule R168). -/
def pollResume (s : State) : MicroResult :=
  if s.hal.resumeSent then .ran s
  else if s.flags.emerg then .ran s.ret
  else stay .pollResume s

/-! ### The control transfer's data stage -/

/-- One received byte is stored: `MemWrite(CT_BUF, CT_OFF + k, 1, hal.fifo_read(0))` (rule R215). -/
def ctReadByte (k : Nat) (s : State) : MicroResult :=
  match s.ct.buf with
  | .cache =>
    if s.cfg.sizeofDataStage ≤ s.ct.off + k then .fault (.cacheBounds (s.ct.off + k))
    else .ran ((s.fifoPop Config.pControl).setCacheByte (s.ct.off + k) (s.fifoHead Config.pControl))
  | .host b _ => .ran (act (.fifoToHost Config.pControl b (s.ct.off + k)) s)
  | .none => .ran (s.fifoPop Config.pControl)

/-- One byte is sent: `hal.fifo_write(0, MemRead(CT_BUF, CT_OFF + k, 1))` (rule R220). -/
def ctWriteByte (k : Nat) (s : State) : MicroResult :=
  match s.ct.buf with
  | .cache =>
    if s.cfg.sizeofDataStage ≤ s.ct.off + k then .fault (.cacheBounds (s.ct.off + k))
    else .ran (s.doHal (.fifoWrite Config.pControl (s.cacheByte (s.ct.off + k))))
  | .host b _ => .ran (act (.fifoFromHost Config.pControl b (s.ct.off + k)) s)
  | .none => .ran s

/-- A received packet is taken (rule R215): bytes beyond what is still asked for are dropped by the ack. -/
def ctInTake (s : State) : MicroResult :=
  let cnt := (s.halPipe Config.pControl).byteCount
  let take := min cnt s.ct.rem
  thenDo ((List.range take).map Micro.ctReadByte ++
    actSteps [.ctMoveOff take, .ctMoveRem take, .hal (.ackIn Config.pControl)] ++ [.ctInNext cnt]) s

/-- After a packet of the IN data stage: a short packet or `incomplete_read` ends the stage (rule R216, rule R217); a
low-speed link waits for a keep-alive before the next IN token (rule R218). -/
def ctInNext (cnt : Nat) (s : State) : MicroResult :=
  if cnt < s.ident.ctrlMps then thenDo ctStatusOut s
  else if s.sr.incompleteRead then thenDo ctStatusOut s
  else if decide (0 < s.ct.rem) && s.hal.lowSpeed then thenDo (ctKeepAlive ++ [.ctInLoop]) s
  else thenDo [.ctInLoop] s

/-! ### The synchronous pump's packets -/

/-- A received packet is taken (rule R310). -/
def spInTake (p : Nat) (s : State) : MicroResult :=
  let cnt := (s.halPipe p).byteCount
  let take := min cnt s.sp.rem
  thenDo (actSteps ((List.range take).map (fun k => Act.fifoToHost p s.sp.buf (s.sp.off + k)) ++
    [.spMoveOff take, .spMoveRem take, .hal (.ackIn p)]) ++ [.spInNext p cnt]) s

/-- After a packet of GET_DATA: a short packet ends it; a low-speed link waits for a keep-alive (rule R310, rule R311). -/
def spInNext (p cnt : Nat) (s : State) : MicroResult :=
  if cnt < (s.pipe p).mps then thenDo [.act (.setStatus Status.good)] s
  else if decide (0 < s.sp.rem) && s.hal.lowSpeed then thenDo (spKeepAlive ++ [.spInLoop p]) s
  else thenDo [.spInLoop p] s

/-! ### The parser -/

/-- The bound of the record walk (rule R264). -/
def parseTotal (who : ParseFor) (s : State) : MicroResult :=
  let total := min (le16 (s.cacheByte 2) (s.cacheByte 3)).toNat s.cacheLen
  if s.cfg.sizeofDataStage < total then .fault (.cacheBounds s.cfg.sizeofDataStage)
  else thenDo [.parseWalk total who] s

/-- One turn of the record walk (rule R265). -/
def parseWalk (total : Nat) (who : ParseFor) (s : State) : MicroResult :=
  let off := s.parse.off
  let len := (s.cacheByte off).toNat
  if off + 2 ≤ total then
    if len < 2 ∨ total < off + len then thenDo [.parseEnd who] s
    else thenDo [.hook off, .parseRecord len (s.cacheByte (off + 1)).toNat total who] s
  else thenDo [.parseEnd who] s

/-- One record (rule R265): INTERFACE is type 4, ENDPOINT type 5, every other type is skipped. -/
def parseRecord (len typ total : Nat) (who : ParseFor) (s : State) : MicroResult :=
  if typ = 4 then
    thenDo [.ifacePending, .act (.setPendEp 0), .act (.setCurSi none), .ifaceMatch len total who] s
  else if typ = 5 then thenDo [.endpoint len, .act (.moveParseOff len), .parseWalk total who] s
  else thenDo [.act (.moveParseOff len), .parseWalk total who] s

/-- Endpoints still pending invalidate the current entry's `configured` (rule R267, rule R268, rule R271). -/
def ifacePending (s : State) : MicroResult :=
  match s.parse.curSi with
  | some c => onlyIf (decide (0 < s.parse.pendEp)) [.act (.setSi c (.configured false))] s
  | none => .ran s

/-- The match of an INTERFACE record; a full table ends the scan (rule R267). -/
def ifaceMatch (len total : Nat) (who : ParseFor) (s : State) : MicroResult :=
  if s.nsi = s.cfg.maxInterface then thenDo [.parseEnd who] s
  else if 9 ≤ len ∧ classMatch s s.parse.off then
    thenDo (actSteps (ifaceActs s s.nsi s.parse.off) ++
      [.ifaceAuto s.nsi, .act (.moveParseOff len), .parseWalk total who]) s
  else thenDo [.act (.moveParseOff len), .parseWalk total who] s

/-- With automatic endpoint configuration the new entry waits for its endpoint records (rule R267). -/
def ifaceAuto (i : Nat) (s : State) : MicroResult :=
  onlyIf s.cfg.autoCfgEndpoint
    [.act (.setCurSi (some i)), .act (.setPendEp (s.iface i).nbEp), .ifaceEmpty i] s

/-- An ENDPOINT record (rule R269). -/
def endpoint (len : Nat) (s : State) : MicroResult :=
  match s.parse.curSi with
  | some i =>
    onlyIf (s.cfg.autoCfgEndpoint && decide (0 < s.parse.pendEp) && decide (7 ≤ len))
      (actSteps (allocSteps s i ((s.iface i).nbEp - s.parse.pendEp) s.parse.off ++ [.decPendEp]) ++ [.endpointDone i]) s
  | none => .ran s

/-- `return NSI > 0` (rule R271): to `RES_BOOL`, or to TICK in `Configured` (rule R161). -/
def parseReturn (who : ParseFor) (s : State) : MicroResult :=
  match who with
  | .command => thenDo [.act (.resBool (decide (0 < s.nsi)))] s
  | .tick cfg =>
    if 0 < s.nsi then thenDo (ctProg (reqSetConfiguration cfg) .cache ++ [.retIfEmerg, .configuredSet]) s
    else thenDo [.act (.advance .unsupported)] s

/-! ### Notifications and nested commands -/

/-- A notification in the foreground (rule R64): the commands the application answers with run before anything else. -/
def notifyFg (o : Output) (s : State) : MicroResult :=
  match (s.emit o).plan with
  | [] => .ran (s.emit o)
  | answer :: rest => thenDo (answer.map .nested) ((s.emit o).setPlan rest)

/-- An arming command in the foreground: the operand check, then `Arm` as micro-steps (rule R340 to rule R343). -/
def startArm (p : Nat) (dirIn : Bool) (s : State) : MicroResult :=
  match armCheck p dirIn s with
  | some r => .refused r
  | none => thenDo [.armCrit p dirIn s.args.buf s.args.len.toNat s.args.cb] s

/-- A command that a notification in the foreground is answered with (rule R356, rule R440). -/
def nestedFg (c : NestedCmd) (s : State) : MicroResult :=
  match decodeCmd c.word with
  | .error e => .refused (.illegalWord e)
  | .ok (.sendDataAsync p) => startArm p.toNat false (s.setArgs c.args)
  | .ok (.getDataAsync p) => startArm p.toNat true (s.setArgs c.args)
  | .ok .abortAllPipes => thenDo (abortProg s.cfg) (s.setArgs c.args)
  | .ok i => .ofOutcome (runNested notify i (s.setArgs c.args))

/-- The `critical` body of `Arm` as a micro-step (rule R343): an armed pipe gives false and nothing else. -/
def armCrit (p : Nat) (dirIn : Bool) (buf len cb : Nat) (s : State) : MicroResult :=
  if (s.job p).enabled then .ran (s.setResBool false)
  else
    thenDo [halStep (.resetPipe p), .prime p dirIn, .armCauses p, .act (.resBool true)]
      (s.armBody p dirIn buf len cb)

/-- The `critical` body of `Complete` as a micro-step, then its callback (rule R352). -/
def completeFg (p : Nat) (st : Status) (s : State) : MicroResult :=
  if (s.job p).enabled then
    thenDo [.callback (s.job p).cb st (s.job p).processed] (s.completeBody p st)
  else .ran s

/-! ### One micro-step -/

/-- One micro-step of the foreground. An `if` outside a wait loop is a micro-step of its own, which reads what it tests at
one instant and pushes what it guards, so an input can come between the test and the guarded action. DESIGN CHOICE (log
entry 26): rule R12 counts writes, actions, `critical` bodies and polls, and says of no such test which of them it
belongs to. A local variable of the pseudocode takes its value in the micro-step that computes it and keeps it (log entry
26). -/
def micro (m : Micro) (s : State) : MicroResult :=
  match m with
  | .act a => .ran (act a s)
  -- TICK in `Unattached` (rule R152)
  | .ifSofgen => onlyIf s.en.sofgen (actSteps [.hal .stopSof, .setSofgen false]) s
  | .ifWakeie => onlyIf s.en.wakeie (actSteps [.hal .disarmWakeupInt, .setWakeie false]) s
  | .ifDiscOff => onlyIf (!s.en.discIe) (actSteps [.hal .enableDiscInt, .setDiscIe true]) s
  | .ifVbusHigh => onlyIf s.hal.vbusHigh [.act (.setDs .attached)] s
  -- TICK in `Attached` (rule R155, rule R153)
  | .attachedStart => onlyIf (s.hal.conn || s.flags.rearm) (attachedProg s.cfg) s
  | .ifConnAck => onlyIf s.hal.conn [halStep .ackConn] s
  | .pollReset who => pollReset who s
  | .pollWindow => pollWindow s
  | .recheckDisc => if s.hal.disc then thenDo [.disconnect .disconnect] s.ret else .ran s
  | .retIfEmerg => if s.flags.emerg then .ran s.ret else .ran s
  | .disconnect c => .ofOutcome (disconnect c s)
  -- TICK in `Powered` (rule R156)
  | .poweredCount => onlyIf s.flags.evtSof (actSteps [.clearEvtSof, .incSofcnt]) s
  | .poweredCheck => onlyIf (decide (s.cnt.sofcnt = s.cfg.poweredCount)) [.act (.advance .default)] s
  -- TICK in `Default` (rule R157, rule R158, rule R159)
  | .defaultFetched =>
    if s.st ≠ Status.good then thenDo [.act .incErrcnt, .defaultRetry] s
    else thenDo (busResetProg s.cfg .second ++ [.retIfEmerg, .recheckDisc, .defaultMps]) s
  | .defaultRetry =>
    if s.cfg.maxErrorCount ≤ s.cnt.errcnt then thenDo [.act (.advance .error)] s
    else thenDo (actSteps [.setRearm true, .advance .attached]) s
  | .defaultMps =>
    if mpsUsable s then thenDo (setAddressProg s.cfg (s.cacheByte 7).toNat) s
    else thenDo [.act (.advance .error)] s
  | .defaultAddressed =>
    if s.st ≠ Status.good then thenDo [.act (.advance .error)] s
    else thenDo (actSteps [.critDevaddr s.cfg.deviceAddress, .hal (.setAddress s.cfg.deviceAddress),
      .advance .addressed]) s
  -- TICK in `Addressed` (rule R160)
  | .addressedFetched =>
    if s.st ≠ Status.good then thenDo [.act (.advance .error)] s
    else thenDo [.act .critIds, .addressedMatch] s
  | .addressedMatch =>
    if checkVidPid s || !s.cfg.strictVidPid then thenDo [.act (.advance .configured)] s
    else thenDo [.act (.advance .unsupported)] s
  -- TICK in `Configured` (rule R161)
  | .configuredFetched =>
    if s.st ≠ Status.good then thenDo [.act (.advance .error)] s
    else thenDo (parseProg s.cfg (.tick (s.cacheByte 5))) s
  | .configuredSet =>
    if s.st ≠ Status.good then thenDo [.act (.advance .error)] s else thenDo [.act (.advance .ready)] s
  -- TICK in `Ready`, `Suspended` and `WaitResume` (rule R162, rule R165, rule R168)
  | .readyCheck => onlyIf s.flags.suspReq (actSteps [.critSuspTaken, .advance .suspended]) s
  | .ifWakeupAck => onlyIf s.hal.wakeup [halStep .ackWakeup] s
  | .waitResumeStart => onlyIf (s.flags.wakeEvt || s.flags.resumeReq) resumeProg s
  | .pollResume => pollResume s
  -- TRANSFER_CONTROL
  | .ctCheck r b => if b.capacity s.cfg < r.wLength.toNat then .refused .bufferTooSmall else .ran s
  | .ctPollSof => pollSof .ctPollSof Micro.isCtExit s
  | .ctPoll w => ctPoll w s
  | .ctStage =>
    if s.sr.dirIn then
      thenDo (actSteps [.ctRem s.sr.wLength.toNat, .ctOff 0, .hal (.setToken Config.pControl .receive)] ++ [.ctInLoop]) s
    else
      thenDo (actSteps [.ctRem s.sr.wLength.toNat, .ctOff 0, .hal (.setToken Config.pControl .send)] ++ [.ctOutLoop]) s
  | .ctInLoop => if 0 < s.ct.rem then thenDo ctInPacket s else thenDo ctStatusOut s
  | .ctInTake => ctInTake s
  | .ctReadByte k => ctReadByte k s
  | .ctInNext cnt => ctInNext cnt s
  | .ctOutLoop =>
    if 0 < s.ct.rem then thenDo (ctOutPacket (min s.ct.rem s.ident.ctrlMps)) s else thenDo ctStatusIn s
  | .ctWriteByte k => ctWriteByte k s
  | .ctExit => thenDo (ctExitSteps s.st) s
  | .ctAckErrors =>
    onlyIf (decide ((s.halPipe Config.pControl).error ≠ 0#5)) [halStep (.ackErrors Config.pControl)] s
  | .ctAckStall => onlyIf (s.halPipe Config.pControl).stall [halStep (.ackStall Config.pControl)] s
  | .ctLen => onlyIf (s.sr.dirIn && decide (s.ct.buf = .cache)) [.act .latchCacheLen] s
  -- SEND_DATA, GET_DATA
  | .spOutLoop p =>
    if 0 < s.sp.rem then thenDo (spOutPacket p s.sp.buf s.sp.off (min s.sp.rem (s.pipe p).mps)) s
    else thenDo [.act (.setStatus Status.good)] s
  | .spInLoop p => if 0 < s.sp.rem then thenDo (spInPacket p) s else thenDo [.act (.setStatus Status.good)] s
  | .spPoll p dirIn => spPoll p dirIn s
  | .spInTake p => spInTake p s
  | .spInNext p cnt => spInNext p cnt s
  | .spPollSof => pollSof .spPollSof Micro.isSpExit s
  | .spExit p dirIn => thenDo (spExitSteps p dirIn s.st) s
  | .spAckErrors p => onlyIf (decide ((s.halPipe p).error ≠ 0#5)) [halStep (.ackErrors p)] s
  | .spAckStall p => onlyIf (s.halPipe p).stall [halStep (.ackStall p)] s
  | .spLen dirIn => onlyIf dirIn [.act (.resLen s.sp.off)] s
  -- the asynchronous pump
  | .abortPipe p => onlyIf (s.job p).enabled [.complete p Status.aborted] s
  | .complete p st => completeFg p st s
  | .callback cb st n => notifyFg (.callback cb st n) s
  | .nested c => nestedFg c s
  | .armCrit p dirIn buf len cb => armCrit p dirIn buf len cb s
  | .prime p dirIn => thenDo (actSteps (primeActs p dirIn s)) s
  | .armCauses p => thenDo [halStep (.enablePipeInt p (armCauses p s))] s
  -- CHECK_CLASS
  | .freePipe p =>
    onlyIf (s.pipe p).alloc (actSteps [.hal (.disablePipe p), .setAlloc p false, .setFrozen p true]) s
  | .parseTotal who => parseTotal who s
  | .parseWalk total who => parseWalk total who s
  | .hook off => notifyFg (.hook off) s
  | .parseRecord len typ total who => parseRecord len typ total who s
  | .ifacePending => ifacePending s
  | .ifaceMatch len total who => ifaceMatch len total who s
  | .ifaceAuto i => ifaceAuto i s
  | .ifaceEmpty i => onlyIf (decide (s.parse.pendEp = 0)) [.act (.setSi i (.configured true))] s
  | .endpoint len => endpoint len s
  | .endpointDone i =>
    onlyIf (decide (s.parse.pendEp = 0)) [.act (.setSi i (.configured (s.iface i).allPiped))] s
  | .parseEnd who => thenDo [.ifacePending, .parseReturn who] s
  | .parseReturn who => parseReturn who s

end Sys2Proof.Machine
end

