-- ==== Sys2Proof/Machine/Run.lean ====
section
/-! DEFINITION. The environment's inputs and the run of a foreground operation: micro-steps one after another, with the
environment and the interrupt sequencer acting between them as rule R12 allows. -/

namespace Sys2Proof.Machine

/-- The SIE reports an event of pipe `p`. While `SOFGEN = 0` it sends no token and there is none (rule R474). -/
def State.raiseOn (p : Nat) (f : HalPipe → HalPipe) (s : State) : State := if s.en.sofgen then s.onPipe p f else s

/-- The device has taken the packet in flight: the FIFO bank is free (rule R62). With no packet in flight the FIFO is
untouched (rule R91). -/
def HalPipe.bankFree (h : HalPipe) : HalPipe := if h.sent then { h with fifo := [], sent := false } else h

/-- The pipe is sending IN tokens: only then does the SIE write its FIFO, so a FIFO that an OUT or SETUP packet is being
written to is touched by nothing else (rule R91). -/
def HalPipe.listening (h : HalPipe) : Bool := h.on && !h.frozen && decide (h.token = .receive)

/-- A packet arrives: `byte_count` and the FIFO are stable while `hal.in_ready[p] = 1` (rule R477 (5)). `held` is what the
FIFO holds of it (rule R80 (3)). An environment that reports one on a pipe that sends no IN token is described by no rule:
`in_ready` and `byte_count` are as it reports them, and the FIFO is untouched (DESIGN CHOICE, log entry 32). -/
def HalPipe.receive (held : List Byte) (n : Nat) (h : HalPipe) : HalPipe :=
  if h.inReady then h
  else { h with inReady := true, byteCount := n, fifo := if h.listening then held else h.fifo }

/-- Host buffer `b` belongs to the engine: a job with it is armed, or the foreground operation in progress was given it
(rule R91). -/
def State.ownsBuffer (s : State) (b : Nat) : Bool :=
  s.jobs.tail.any (fun j => j.enabled && j.buf == b) || (s.sp.phase != .idle && s.sp.buf == b) ||
  match s.ct.buf with
  | .host c _ => c == b
  | .cache => false
  | .none => false

/-- Whether a check is walking the tables: a micro-step of the parser is still to be taken. -/
def Micro.isParse (m : Micro) : Bool :=
  match m with
  | .freePipe _ => true
  | .parseTotal _ => true
  | .parseWalk _ _ => true
  | .hook _ => true
  | .parseRecord _ _ _ _ => true
  | .ifacePending => true
  | .ifaceMatch _ _ _ => true
  | .ifaceAuto _ => true
  | .ifaceEmpty _ => true
  | .endpoint _ => true
  | .endpointDone _ => true
  | .parseEnd _ => true
  | .parseReturn _ => true
  | _ => false

/-- What the HAL holds when the context is constructed: as it was, but every pipe's interrupt set is empty (rule R460), and
no start of frame is pending, as `SOFGEN` is 0 (log entry 30). -/
def Hal.masked (h : Hal) : Hal :=
  { h with sof := false, pipes := h.pipes.map fun p => { p with causes := Causes.none } }

/-- The context is constructed (rule R460): every register takes its reset value and the interrupt mask is the initial one;
the rest of the HAL, the host buffers, the parameters and tables and what the environment will do are untouched, and
nothing is issued. -/
def State.construct (s : State) : State :=
  { State.resetWith s.cfg s.tables s.hal.vbusHigh s.hal.lowSpeed s.hal.highSpeed with
    hal := s.hal.masked, hbuf := s.hbuf, inputs := s.inputs, plan := s.plan, trace := s.trace, free := s.free }

/-- What one event of the environment does. A start of frame occurs only while `SOFGEN = 1` (rule R421); the
environment presents an operation only while no other is in progress (rule R475), and leaves alone the tables a check walks
(rule R479) and the buffers that belong to the engine (rule R91; log entry 32). -/
def occur (e : Event) (s : State) : Host.Outcome State Fault Refusal :=
  match e with
  | .vbus high => .next (s.setHal { s.hal with vbusHigh := high })
  | .speed low high => .next (s.setHal { s.hal with lowSpeed := low, highSpeed := high })
  | .resetting b => .next (s.setHal { s.hal with resetting := b })
  | .conn => .next (s.setHal { s.hal with conn := true })
  | .disc => .next (s.setHal { s.hal with disc := true })
  | .roleChange => .next (s.setHal { s.hal with roleChange := true })
  | .vbusError => .next (s.setHal { s.hal with vbusError := true })
  | .wakeup => .next (s.setHal { s.hal with wakeup := true })
  | .resumeSent => .next (s.setHal { s.hal with resumeSent := true })
  | .sof => .next (s.setHal { s.hal with sof := s.hal.sof || s.en.sofgen })
  | .setupAck p => .next (s.raiseOn p fun h => { h.bankFree with setupAck := true })
  | .inPacket p bytes => .next (s.raiseOn p (HalPipe.receive (s.fitFifo p bytes) bytes.length))
  | .outReady p => .next (s.raiseOn p fun h => { h.bankFree with outReady := true })
  | .stall p => .next (s.raiseOn p fun h => { h with stall := true })
  | .nak p => .next (s.raiseOn p fun h => { h with nak := true })
  | .pipeError p kinds => .next (s.raiseOn p fun h => { h with error := h.error ||| kinds })
  | .irq => sequencer s
  | .present w a => if s.fg = [] then .next ((s.setBus (some w)).setArgs a) else .refused .foregroundBusy
  | .hostWrite b off bytes => if s.ownsBuffer b then .refused .bufferInUse else .next (s.setHostBytes b off bytes)
  | .setTables t => if s.fg.any Micro.isParse then .refused .tablesInUse else .next (s.setTables t)
  | .construct => if s.fg = [] then .next s.construct else .refused .foregroundBusy

/-- One micro-step has passed: the next input is one micro-step nearer. -/
def State.elapse (s : State) : State :=
  match s.inputs with
  | ⟨.after (k + 1), e⟩ :: rest => s.setInputs (⟨.after k, e⟩ :: rest)
  | _ => s

/-- The input that falls due before the next micro-step, if there is one. -/
def State.dueNow (s : State) : Option (Event × List Input) :=
  match s.inputs with
  | ⟨.after 0, e⟩ :: rest => some (e, rest)
  | _ => none

/-- Run the foreground operation in progress for at most so many micro-steps and inputs, until it returns (`fg` empty)
or waits for an environment that has no more inputs. An input that is due comes first (rule R12); at a pending poll the
next input comes at once, as the polls between two changes of the environment make no difference (rule R13). -/
def run : Nat → State → Host.Outcome State Fault Refusal
  | 0, s => .next s
  | n + 1, s =>
    match s.fg with
    | [] => .next s
    | m :: rest =>
      match s.dueNow with
      | some (e, later) => andThen (occur e (s.setInputs later)) (run n)
      | none =>
        match micro m (s.setFg rest) with
        | .ran s1 => run n s1.elapse
        | .pending s1 =>
          match s1.inputs with
          | [] => .next s1
          | i :: later => andThen (occur i.event (s1.setInputs later)) (run n)
        | .fault r => .fault r
        | .refused r => .refused r

/-- How many micro-steps and inputs one step of the machine may take. An operation that is not finished by then is
still in progress, and the next step goes on with it. -/
def burst : Nat := 16777216

/-- Start a foreground operation and run it (rule R6 (1), rule R475: never two concurrently). -/
def startFg (ms : List Micro) (s : State) : Host.Outcome State Fault Refusal :=
  if s.fg = [] then run burst (s.setFg ms) else .refused .foregroundBusy

end Sys2Proof.Machine
end

