-- ==== Sys2Proof/Machine/PortFsm.lean ====
section
/-! DEFINITION. TICK (rule R150) and the foreground operations on pipes and descriptors: the meanings of
TRANSFER_CONTROL, SEND_DATA, GET_DATA, SEND_DATA_ASYNC, GET_DATA_ASYNC, ABORT_ALL_PIPES, CHECK_VID_PID, CHECK_CLASS. -/

namespace Sys2Proof.Machine

/-- TICK (rule R150): `DS` is read once, at entry. -/
def execTick (s : State) : Host.Outcome State Fault Refusal := startFg (tickProg s.cfg s.ds) s

/-- TRANSFER_CONTROL (rule R210), with its result in `RES_STATUS`. The operands are read at entry only (rule R111). -/
def execTransferControl (b : BitVec 8) (s : State) : Host.Outcome State Fault Refusal :=
  if b = 0#8 ∨ b = 1#8 then
    startFg (ctProg (assembleSetup s.args.setup s.args.incomplete) (bufferOperand b s.args) ++ [.act .resStatus]) s
  else .refused (.illegalWord .bufferSelect)

/-- The operand check of SEND_DATA and GET_DATA (rule R302). -/
def pumpCheck (p : Nat) (dirIn : Bool) (s : State) : Bool :=
  pipeOk s.cfg p && (s.pipe p).alloc && (s.pipe p).dirIn == dirIn && !(s.job p).enabled

/-- SEND_DATA (rule R300). -/
def execSendData (p : BitVec 8) (s : State) : Host.Outcome State Fault Refusal :=
  if pumpCheck p.toNat false s then startFg (spProg p.toNat false s.args.buf s.args.len.toNat) s
  else .refused .badPipe

/-- GET_DATA (rule R310). -/
def execGetData (p : BitVec 8) (s : State) : Host.Outcome State Fault Refusal :=
  if pumpCheck p.toNat true s then startFg (spProg p.toNat true s.args.buf s.args.len.toNat) s
  else .refused .badPipe

/-- SEND_DATA_ASYNC (rule R340). -/
def execSendDataAsync (p : BitVec 8) (s : State) : Host.Outcome State Fault Refusal :=
  match armCheck p.toNat false s with
  | some r => .refused r
  | none => startFg [.armCrit p.toNat false s.args.buf s.args.len.toNat s.args.cb] s

/-- GET_DATA_ASYNC (rule R341). -/
def execGetDataAsync (p : BitVec 8) (s : State) : Host.Outcome State Fault Refusal :=
  match armCheck p.toNat true s with
  | some r => .refused r
  | none => startFg [.armCrit p.toNat true s.args.buf s.args.len.toNat s.args.cb] s

/-- ABORT_ALL_PIPES as a command (rule R360). -/
def execAbortAllPipes (s : State) : Host.Outcome State Fault Refusal := startFg (abortProg s.cfg) s

/-- CHECK_VID_PID (rule R260): it writes only its result. It uses `CACHE`, so it is the foreground's alone (rule R440). -/
def execCheckVidPid (s : State) : Host.Outcome State Fault Refusal :=
  if s.fg = [] then .next (s.setResBool (checkVidPid s)) else .refused .foregroundBusy

/-- CHECK_CLASS (rule R263). -/
def execCheckClass (s : State) : Host.Outcome State Fault Refusal := startFg (parseProg s.cfg .command) s

end Sys2Proof.Machine
end

