-- ==== Sys2Proof/Machine/Entries.lean ====
section
/-! DEFINITION. The interrupt entries (rule R421 to rule R425, rule R345), each run to its end as one step, and the
request builders (rule R130 to rule R138), each of which loads the operand register `ARG_SETUP`. -/

namespace Sys2Proof.Machine

/-- EV_SOF (rule R421). -/
def execEvSof (s : State) : Host.Outcome State Fault Refusal := enter .sof s

/-- EV_DISCONNECT (rule R422). -/
def execEvDisconnect (s : State) : Host.Outcome State Fault Refusal := enter .disconnect s

/-- EV_ROLE_CHANGE (rule R423). -/
def execEvRoleChange (s : State) : Host.Outcome State Fault Refusal := enter .roleChange s

/-- EV_VBUS_ERROR (rule R424). -/
def execEvVbusError (s : State) : Host.Outcome State Fault Refusal := enter .vbusError s

/-- EV_WAKEUP (rule R425). -/
def execEvWakeup (s : State) : Host.Outcome State Fault Refusal := enter .wakeup s

/-- PIPE_ISR (rule R345); a pipe operand that is no data pipe is refused (rule R117, rule R127 (2)). -/
def execPipeIsr (p : BitVec 8) (s : State) : Host.Outcome State Fault Refusal :=
  if pipeOk s.cfg p.toNat then enter (.pipe p.toNat) s else .refused .badPipe

/-- The value of a request builder becomes the `ARG_SETUP` operand (rule R130, rule R111). -/
def loadSetup (r : Setup) (s : State) : State :=
  s.setArgs { s.args with setup := r.wire, incomplete := r.incompleteRead }

/-- `get_descriptor_device(len, incomplete)` (rule R131). -/
def execGetDescriptorDevice (len : Half) (incomplete : Bool) (s : State) : Host.Outcome State Fault Refusal :=
  .next (loadSetup (reqGetDescriptorDevice len incomplete) s)

/-- `get_descriptor_configuration(idx, len)` (rule R132). -/
def execGetDescriptorConfiguration (idx : BitVec 8) (len : Half) (s : State) : Host.Outcome State Fault Refusal :=
  .next (loadSetup (reqGetDescriptorConfiguration idx len) s)

/-- `host_set_address(addr)` (rule R133). -/
def execHostSetAddress (addr : BitVec 8) (s : State) : Host.Outcome State Fault Refusal :=
  .next (loadSetup (reqSetAddress addr) s)

/-- `set_configuration(cfg)` (rule R134). -/
def execSetConfiguration (cfg : BitVec 8) (s : State) : Host.Outcome State Fault Refusal :=
  .next (loadSetup (reqSetConfiguration cfg) s)

/-- `set_interface(ifnum, alt)` (rule R135). -/
def execSetInterface (ifnum alt : BitVec 8) (s : State) : Host.Outcome State Fault Refusal :=
  .next (loadSetup (reqSetInterface ifnum alt) s)

/-- `set_feature_remote_wakeup()` (rule R136). -/
def execSetFeatureRemoteWakeup (s : State) : Host.Outcome State Fault Refusal :=
  .next (loadSetup reqSetFeatureRemoteWakeup s)

/-- `clear_feature_endpoint_halt(epaddr)` (rule R138). -/
def execClearFeatureEndpointHalt (ep : BitVec 8) (s : State) : Host.Outcome State Fault Refusal :=
  .next (loadSetup (reqClearFeatureEndpointHalt ep) s)

/-- `get_configuration()` (rule R137). -/
def execGetConfiguration (s : State) : Host.Outcome State Fault Refusal := .next (loadSetup reqGetConfiguration s)

end Sys2Proof.Machine
end

