-- ==== Sys2Proof/Machine/Dispatch.lean ====
section
/-! DEFINITION. One arm per operation: its meaning. -/

namespace Sys2Proof.Machine

def exec (i : Instr) (s : State) : Host.Outcome State Fault Refusal :=
  match i with
  | .tick => Sys2Proof.Machine.execTick s
  | .transferControl b => Sys2Proof.Machine.execTransferControl b s
  | .sendData p => Sys2Proof.Machine.execSendData p s
  | .getData p => Sys2Proof.Machine.execGetData p s
  | .sendDataAsync p => Sys2Proof.Machine.execSendDataAsync p s
  | .getDataAsync p => Sys2Proof.Machine.execGetDataAsync p s
  | .suspend => Sys2Proof.Machine.execSuspend s
  | .resume => Sys2Proof.Machine.execResume s
  | .abortAllPipes => Sys2Proof.Machine.execAbortAllPipes s
  | .pipeIsr p => Sys2Proof.Machine.execPipeIsr p s
  | .checkVidPid => Sys2Proof.Machine.execCheckVidPid s
  | .checkClass => Sys2Proof.Machine.execCheckClass s
  | .isHostReady => Sys2Proof.Machine.execIsHostReady s
  | .isHostSuspended => Sys2Proof.Machine.execIsHostSuspended s
  | .getVid => Sys2Proof.Machine.execGetVid s
  | .getPid => Sys2Proof.Machine.execGetPid s
  | .numSupportedInterfaces => Sys2Proof.Machine.execNumSupportedInterfaces s
  | .interfaceClass j => Sys2Proof.Machine.execInterfaceClass j s
  | .interfaceSubclass j => Sys2Proof.Machine.execInterfaceSubclass j s
  | .interfaceProtocol j => Sys2Proof.Machine.execInterfaceProtocol j s
  | .interfacePipe j e => Sys2Proof.Machine.execInterfacePipe j e s
  | .evSof => Sys2Proof.Machine.execEvSof s
  | .evDisconnect => Sys2Proof.Machine.execEvDisconnect s
  | .evRoleChange => Sys2Proof.Machine.execEvRoleChange s
  | .evVbusError => Sys2Proof.Machine.execEvVbusError s
  | .evWakeup => Sys2Proof.Machine.execEvWakeup s
  | .getDescriptorDevice len incomplete => Sys2Proof.Machine.execGetDescriptorDevice len incomplete s
  | .getDescriptorConfiguration idx len => Sys2Proof.Machine.execGetDescriptorConfiguration idx len s
  | .hostSetAddress addr => Sys2Proof.Machine.execHostSetAddress addr s
  | .setConfiguration cfg => Sys2Proof.Machine.execSetConfiguration cfg s
  | .setInterface ifnum alt => Sys2Proof.Machine.execSetInterface ifnum alt s
  | .setFeatureRemoteWakeup => Sys2Proof.Machine.execSetFeatureRemoteWakeup s
  | .clearFeatureEndpointHalt ep => Sys2Proof.Machine.execClearFeatureEndpointHalt ep s
  | .getConfiguration => Sys2Proof.Machine.execGetConfiguration s

end Sys2Proof.Machine
end

