-- ==== Sys2Proof/Machine/Step.lean ====
section
/-! DEFINITION. One step of the machine, and the word the host places where the next step takes it. -/

namespace Sys2Proof.Machine

/-- A step with nothing presented: the foreground operation in progress goes on; with none in progress the next input
of the environment happens; with no input left the block idles (it executes nothing by itself, rule R1). -/
def goOn (s : State) : Host.Outcome State Fault Refusal :=
  match s.fg with
  | _ :: _ => run burst s
  | [] =>
    match s.inputs with
    | [] => .next s
    | i :: later => occur i.event (s.setInputs later)

/-- One step: an operation that is presented is taken, decoded and executed; a word that names none is refused
(rule R127 (1)); with nothing presented, `goOn`. -/
def step (s : State) : Host.Outcome State Fault Refusal :=
  match s.bus with
  | some w =>
    match decode w with
    | .ok i => exec i (s.setBus none)
    | .error e => .refused (.illegalWord e)
  | none => goOn s

/-- The state with an operation presented at the command interface (rule R60 (1)), its bits numbered as
spec/opcode_table.json numbers them. The next step takes it; nothing else is changed. -/
def State.withFetchWord (s : State) (nbits w : Nat) : State := s.setBus (presentedOf nbits w)

end Sys2Proof.Machine
end

