-- ==== Sys2Proof/Safety.lean ====
section
/-! DEFINITION. The terms the statements use: the invariant of the machine, scripts of the environment, the situations an
operation can be started in, and readings of the outputs issued. -/

namespace Sys2Proof.Machine

/-! ### Scripts of the environment and situations -/

/-- The environment does each of these when the foreground's poll is pending, in order. -/
def atWait (es : List Event) : List Input := es.map fun e => ⟨.atWait, e⟩

/-- One start of frame: the SIE raises it and the interrupt sequencer presents EV_SOF. -/
def frame : List Event := [.sof, .irq]

/-- `n` starts of frame. -/
def frames (n : Nat) : List Event := (List.replicate n frame).flatten

/-- The device answers the IN tokens of pipe `q` with these packets; on a low-speed link one start of frame, the
keep-alive, comes after every packet but the last (rule R218, rule R311). -/
def arrivals (q : Nat) (low : Bool) (full : List (List Byte)) (last : List Byte) : List Event :=
  full.flatMap (fun p => Event.inPacket q p :: (if low then frame else [])) ++ [Event.inPacket q last]

/-- The packets that end an IN stage of at most `len` bytes on a pipe of packet size `mps` (rule R215, rule R216, rule
R227, rule R310): any number of full ones that leave room, then one that is short or brings at least what was still asked
for. Each fits the FIFO, which holds `cap` bytes; beyond that the bytes are a free value (log entry 28). -/
def EndsStage (mps len cap : Nat) (full : List (List Byte)) (last : List Byte) : Prop :=
  (∀ p ∈ full, p.length = mps) ∧ full.flatten.length < len ∧
  (last.length < mps ∨ len ≤ full.flatten.length + last.length) ∧ ∀ p ∈ full ++ [last], p.length ≤ cap

/-- No operation is in progress, the environment does nothing, and the application answers no notification. -/
def Quiet (s : State) : Prop := s.fg = [] ∧ s.inputs = [] ∧ s.plan = []

/-- No interrupt source above EV_SOF in the order of rule R430 is pending. -/
def OnlySof (s : State) : Prop :=
  s.hal.vbusError = false ∧ s.hal.disc = false ∧ s.hal.roleChange = false ∧ s.hal.wakeup = false

/-- A control transfer can be carried out: no operation in progress, no emergency, SOF generation running, the control
pipe configured, no other interrupt source pending, and no wait with a budget of nothing. -/
def ControlReady (s : State) : Prop :=
  s.fg = [] ∧ s.flags.emerg = false ∧ s.en.sofgen = true ∧ s.live Config.pControl = true ∧ OnlySof s ∧
  0 < s.cfg.ctrlSetupTimeout ∧ 0 < s.cfg.ctrlDataTimeout ∧ 0 < s.cfg.ctrlStatusTimeout

/-- The request that TRANSFER_CONTROL is given (rule R117). -/
def State.request (s : State) : Setup := assembleSetup s.args.setup s.args.incomplete

/-- Data pipe `p` can be used by the synchronous pump in this direction (rule R302) and has no event flag set, and the bus
runs, so that the device can answer (rule R474). -/
def PumpReady (s : State) (p : Nat) (dirIn : Bool) : Prop :=
  s.fg = [] ∧ 1 ≤ p ∧ p < s.cfg.nPipes ∧ (s.pipe p).alloc = true ∧ (s.pipe p).dirIn = dirIn ∧
  (s.job p).enabled = false ∧ s.flags.emerg = false ∧ s.en.sofgen = true ∧ (s.halPipe p).on = true ∧ (s.halPipe p).inReady = false ∧
  (s.halPipe p).outReady = false ∧ (s.halPipe p).error = 0#5 ∧ (s.halPipe p).stall = false ∧
  (s.halPipe p).nak = false ∧ 0 < s.cfg.delayTimeoutSof

/-- Data pipe `p` can be armed in this direction (rule R342), and nothing is in progress. -/
def ArmReady (s : State) (p : Nat) (dirIn : Bool) : Prop :=
  s.fg = [] ∧ s.inputs = [] ∧ 1 ≤ p ∧ p < s.cfg.nPipes ∧ (s.pipe p).alloc = true ∧ (s.pipe p).dirIn = dirIn ∧
  (s.sp.phase = .idle ∨ s.sp.pipe ≠ p)

/-! ### Readings of memory and of the outputs -/

/-- Every byte of `CACHE` and of every host buffer reads in `t` as it reads in `s`. -/
def SameMemory (s t : State) : Prop :=
  (∀ off, t.cacheByte off = s.cacheByte off) ∧ (∀ b off, t.hostByte b off = s.hostByte b off)

/-- Host buffer `b` holds these bytes from offset `off` on, and every other byte of every host buffer reads as before. -/
def HostStored (s t : State) (b off : Nat) (bytes : List Byte) : Prop :=
  (∀ k, k < bytes.length → t.hostByte b (off + k) = bytes.getD k 0#8) ∧
  (∀ b' o, o < 65536 → ¬ (b' = b ∧ off ≤ o ∧ o < off + bytes.length) → t.hostByte b' o = s.hostByte b' o)

/-- `CACHE` holds these bytes from offset 0 on, and every other byte of it reads as before. -/
def CacheStored (s t : State) (bytes : List Byte) : Prop :=
  (∀ k, k < bytes.length → t.cacheByte k = bytes.getD k 0#8) ∧
  (∀ o, bytes.length ≤ o → t.cacheByte o = s.cacheByte o)

/-- The buffer operand that buffer select `b` names (rule R82) holds these bytes from its offset 0 on, and every other byte
of memory reads as before. -/
def BufferStored (s t : State) (b : BitVec 8) (bytes : List Byte) : Prop :=
  if b = 0#8 then CacheStored s t bytes ∧ ∀ c o, t.hostByte c o = s.hostByte c o
  else HostStored s t s.args.buf 0 bytes ∧ ∀ o, t.cacheByte o = s.cacheByte o

/-- The first `n` bytes of the buffer operand that buffer select `b` names (rule R82). -/
def State.bufferBytes (s : State) (b : BitVec 8) (n : Nat) : List Byte :=
  (List.range n).map fun k => if b = 0#8 then s.cacheByte k else s.hostByte s.args.buf k

/-- `t` has issued exactly these outputs since `s`, in this order. -/
def Issued (s t : State) (out : List Output) : Prop := t.trace = out.reverse ++ s.trace

/-- HAL actions as outputs. -/
def hals (l : List HalAction) : List Output := l.map .hal

/-- The HAL actions of the SETUP phase, up to and with the hand-over of the packet (rule R213). -/
def setupActions (s : State) : List HalAction :=
  [HalAction.resetPipe 0, .setToken 0 .setup] ++
  (List.range 8).map (fun k => HalAction.fifoWrite 0 (s.args.setup.extractLsb' (8 * k) 8)) ++
  [HalAction.unfreezePipe 0, .sendSetup 0]

/-- The HAL actions of the OUT status stage and of the exit after it (rule R219, rule R224). -/
def statusOutActions : List HalAction :=
  [.setToken 0 .send, .unfreezePipe 0, .sendOut 0, .ackOut 0, .freezePipe 0]

/-- The HAL actions of the IN status stage and of the exit after it (rule R221, rule R224). -/
def statusInActions : List HalAction :=
  [.setToken 0 .receive, .unfreezePipe 0, .sendIn 0, .ackIn 0, .freezePipe 0]

/-- The bytes written to the FIFO of pipe `p` by a list of outputs, in order. -/
def fifoBytes (p : Nat) (l : List Output) : List Byte :=
  l.filterMap fun o =>
    match o with
    | .hal (.fifoWrite q b) => if q = p then some b else none
    | _ => none

/-- The first `n` bytes of host buffer `b` from offset `off` on. -/
def State.hostBytes (s : State) (b off n : Nat) : List Byte := (List.range n).map fun k => s.hostByte b (off + k)

/-- What ABORT_ALL_PIPES issues (rule R360): for each armed data pipe, ascending, the end of its job and its callback. -/
def abortOutputs (s : State) : List Output :=
  s.cfg.dataPipes.flatMap fun p =>
    if (s.job p).enabled then
      [.hal (.disablePipeInt p), .hal (.resetPipe p), .callback (s.job p).cb Status.aborted (s.job p).processed]
    else []

/-- `SOFIE` once no job remains armed (rule R352). -/
def sofieAfter (s : State) : Bool := if s.anyArmed then s.en.sofieSaveAsync else s.en.sofie

/-- Word index `g` of `VIDPID_TABLE` starts a group (rule R125). -/
inductive GroupAt (l : List Half) : Nat → Prop where
  | first : GroupAt l 0
  | next (g : Nat) (h : GroupAt l g) (hl : g + 2 ≤ l.length) : GroupAt l (g + 2 + (l.getD (g + 1) 0#16).toNat)

/-! ### A configuration descriptor of two interfaces -/

/-- A record of this length and type stands at `off` in `CACHE`. -/
def RecordAt (s : State) (off : Nat) (len typ : Byte) : Prop := s.cacheByte off = len ∧ s.cacheByte (off + 1) = typ

/-- The class triple of the INTERFACE record at `off` (rule R122). -/
def State.tripleAt (s : State) (off : Nat) : Byte × Byte × Byte :=
  (s.cacheByte (off + 5), s.cacheByte (off + 6), s.cacheByte (off + 7))

/-- `CACHE` holds a configuration descriptor of 48 bytes with two interfaces of which the first alone is registered (rule
R273): the header, INTERFACE, two ENDPOINT records, INTERFACE, one ENDPOINT record. -/
def OneOfTwoMatches (s : State) : Prop :=
  RecordAt s 0 9#8 2#8 ∧ s.cacheByte 2 = 48#8 ∧ s.cacheByte 3 = 0#8 ∧
  RecordAt s 9 9#8 4#8 ∧ s.cacheByte 13 = 2#8 ∧ RecordAt s 18 7#8 5#8 ∧ RecordAt s 25 7#8 5#8 ∧
  RecordAt s 32 9#8 4#8 ∧ RecordAt s 41 7#8 5#8 ∧
  s.tripleAt 9 ∈ s.tables.classes ∧ s.tripleAt 32 ∉ s.tables.classes

/-- The packet size an ENDPOINT record at `off` gives (rule R124). -/
def State.sizeAt (s : State) (off : Nat) : Nat :=
  ((s.cacheByte (off + 5) ++ s.cacheByte (off + 4)).extractLsb' 0 11).toNat

/-- The `PIPE` entry an ENDPOINT record at `off` gives (rule R270): the direction from bit 7 of the address, bulk
single-banked, every other type double-banked. -/
def State.pipeAt (s : State) (off : Nat) : Pipe where
  alloc := true
  typ := pipeTypeOf (s.cacheByte (off + 3))
  dirIn := (s.cacheByte (off + 2)).getLsbD 7
  ep := (s.cacheByte (off + 2)).extractLsb' 0 4
  mps := s.sizeAt off
  banks := if (s.cacheByte (off + 3)).extractLsb' 0 2 = 2#2 then 1 else 2
  interval := s.cacheByte (off + 6)
  frozen := true

/-- `hal.configure_pipe` with the fields of a `PIPE` entry (rule R270). -/
def configured (p : Nat) (r : Pipe) : Output :=
  .hal (.configurePipe p r.typ r.dirIn r.ep r.mps r.banks r.interval)

/-- The entry that a match makes from the INTERFACE record at `off` of an interface with two endpoints (rule R267), slot by
slot: `first` and `second` for its endpoints, `NOPIPE` for the rest. -/
def RecordedAs (s : State) (f : Iface) (off : Nat) (first second : Byte) (ok : Bool) : Prop :=
  f.ifnum = s.cacheByte (off + 2) ∧ f.alt = s.cacheByte (off + 3) ∧ (f.cls, f.subclass, f.protocol) = s.tripleAt off ∧
  f.nbEp = 2 ∧ f.pipe.getD 0 0xFF#8 = first ∧ f.pipe.getD 1 0xFF#8 = second ∧
  (∀ e, 2 ≤ e → e < s.cfg.maxEp → f.pipe.getD e 0xFF#8 = 0xFF#8) ∧ f.configured = ok

/-! ### The invariant -/

/-- The pipe numbers whose table entries a straight-line micro-step writes. -/
def Act.writes : Act → List Nat
  | .setFrozen p _ => [p]
  | .setAlloc p _ => [p]
  | .jobInflight p _ => [p]
  | .critSetPipe p _ => [p]
  | _ => []

/-- The pipe numbers whose table entries a micro-step, or what it goes on with, writes. -/
def Micro.writes : Micro → List Nat
  | .act a => a.writes
  | .spOutLoop p => [p]
  | .spInLoop p => [p]
  | .spPoll p _ => [p]
  | .spInTake p => [p]
  | .spInNext p _ => [p]
  | .spExit p _ => [p]
  | .abortPipe p => [p]
  | .complete p _ => [p]
  | .armCrit p _ _ _ _ => [p]
  | .prime p _ => [p]
  | .freePipe p => [p]
  | _ => []

/-- A micro-step that keeps `DS` and `CTRL_MPS` legal and writes only table entries that exist. -/
def Micro.sound (c : Config) (m : Micro) : Prop :=
  (∀ p ∈ m.writes, p < c.nPipes) ∧
  m ≠ .act (.setDs .vbusLow) ∧ m ≠ .act (.advance .vbusLow) ∧
  (∀ n, m = .act (.critMps n) → legalMps n = true)

/-- The invariant of the machine: both memories are in canonical form; `PIPE` and `JOB` have one entry per pipe; `TMO`
and every `timeout_cnt` are at most 0xFFFF (rule R48); `CTRL_MPS` is a legal size (rule R31); `DS` is `VbusLow` only with
`HAS_VBUS_LOW` (rule R113); a start of frame is pending only while `SOFGEN` is 1 (rule R421; log entry 30); every FIFO
holds at most `PIPE_CAP[p]` bytes (rule R80 (3)); and what the foreground has still to do keeps all that. -/
structure Inv (s : State) : Prop where
  config : s.cfg.legal = true
  cache : Memory.wf s.cache = true
  hbuf : Memory.wf s.hbuf = true
  pipes : s.pipes.length = s.cfg.nPipes
  jobs : s.jobs.length = s.cfg.nPipes
  tmo : s.cnt.tmo ≤ 0xFFFF
  timeouts : ∀ j ∈ s.jobs, j.timeoutCnt ≤ 0xFFFF
  mps : legalMps s.ident.ctrlMps = true
  ds : s.ds = .vbusLow → s.cfg.hasVbusLow = true
  sof : s.hal.sof = true → s.en.sofgen = true
  fifo : ∀ p, (s.halPipe p).fifo.length ≤ s.cfg.cap p
  fg : ∀ m ∈ s.fg, m.sound s.cfg

end Sys2Proof.Machine
end

