-- ==== Sys2Proof/Certificates/Slice0/Obligations.lean ====
section
/-! DEFINITION. The statements about the model, each from the numbered rules of spec/. -/

open Sys2Proof Sys2Proof.Machine

/-! ### Encoding -/

/-- Decoding the encoding of any well-formed operation gives it back (rule R111, rule R115, rule R116, rule R118). That a
request builder is presented as its eight bytes and a side bit is the model's choice (log entry 15). -/
def Obligations.DecodeOfEncode : Prop := ∀ i : Instr, WellFormed i = true → decode (encode i) = .ok i

/-- A presented word names at most one operation and every one of its bits is accounted for: what decodes to an operation
is that operation's encoding, and the operation is well formed. Presenting a builder as eight bytes and a side bit is the
model's choice (log entry 15). -/
def Obligations.EncodeOfDecode : Prop :=
  ∀ (w : Presented) (i : Instr), decode w = .ok i → WellFormed i = true ∧ encode i = w

/-- A few words written out from rule R111, rule R115, rule R116 and rule R118 decode to what they stand for. The
numbering of the eight bytes is that of the opcode table (log entry 15). -/
def Obligations.WordsDecode : Prop :=
  decode (.cmd 0x00000000#32) = .ok .tick ∧ decode (.cmd 0x01000100#32) = .ok (.transferControl 1#8) ∧
  decode (.cmd 0x02020000#32) = .ok (.sendData 2#8) ∧ decode (.cmd 0x18000100#32) = .ok (.interfacePipe 0#8 1#8) ∧
  decode (.cmd 0x09010000#32) = .ok (.pipeIsr 1#8) ∧ decode (.cmd 0x84000000#32) = .ok .evWakeup ∧
  decode (.setup 0x00FF000002000680#64 false) = .ok (.getDescriptorConfiguration 0#8 255#16) ∧
  decode (.setup 0x0000000100020B01#64 false) = .ok (.setInterface 1#8 2#8)

/-- The operations that use neither `a` nor `b` (rule R115, rule R116). -/
def Sys2Proof.bareOps : List (BitVec 8) :=
  [0x00#8, 0x06#8, 0x07#8, 0x08#8, 0x0A#8, 0x0B#8, 0x10#8, 0x11#8, 0x12#8, 0x13#8, 0x14#8, 0x80#8, 0x81#8, 0x82#8,
    0x83#8, 0x84#8]

/-- The operations that use `a` and not `b`. -/
def Sys2Proof.aOps : List (BitVec 8) := [0x02#8, 0x03#8, 0x04#8, 0x05#8, 0x09#8, 0x15#8, 0x16#8, 0x17#8]

/-- A command word that names no operation (rule R127 (1)), said on its four fields. -/
def Sys2Proof.illegalFields (op a b z : BitVec 8) : Prop :=
  (op ∉ bareOps ∧ op ∉ aOps ∧ op ≠ 0x01#8 ∧ op ≠ 0x18#8) ∨ z ≠ 0#8 ∨ (op ∈ bareOps ∧ (a ≠ 0#8 ∨ b ≠ 0#8)) ∨
  (op ∈ aOps ∧ b ≠ 0#8) ∨ (op = 0x01#8 ∧ (a ≠ 0#8 ∨ (b ≠ 0#8 ∧ b ≠ 1#8)))

/-- A command word that names no operation is refused (rule R127 (1)), and every other word decodes to an operation, which
may still refuse its operands or its context (rule R127 (2)). -/
def Obligations.IllegalWordsRefused : Prop :=
  ∀ (s : State) (op a b z : BitVec 8), s.bus = some (.cmd (op ++ a ++ b ++ z)) →
    (illegalFields op a b z → ∃ e, step s = .refused (.illegalWord e)) ∧
    (¬ illegalFields op a b z → ∃ i, decode (.cmd (op ++ a ++ b ++ z)) = .ok i)

/-- A step with an operation presented is that operation's meaning, with the word taken off the interface; a step with
nothing presented, no operation in progress and no input changes nothing (rule R1: the block executes what is presented,
it fetches nothing). How an operation is presented is the model's choice (log entry 5). -/
def Obligations.StepRunsDecoded : Prop :=
  (∀ (s : State) (w : Presented) (i : Instr), s.bus = some w → decode w = .ok i →
    WellFormed i = true ∧ step s = exec i { s with bus := none }) ∧
  (∀ s : State, s.bus = none → s.fg = [] → s.inputs = [] → step s = .next s)

/-! ### Request builders -/

/-- Each request builder loads the operand register `ARG_SETUP` with the eight bytes of its rule, byte 0 first, and the
`incomplete_read` bit, and changes nothing else (rule R131 to rule R138). That the value goes to `ARG_SETUP` is the
model's choice (log entry 15). -/
def Obligations.BuildersLoadSetup : Prop :=
  ∀ (s : State) (v w : BitVec 8) (len : BitVec 16) (inc : Bool),
    let loads := fun (i : Instr) (bytes : List (BitVec 8)) (bit : Bool) =>
      ∃ x : BitVec 64, (List.range 8).map (fun k => x.extractLsb' (8 * k) 8) = bytes ∧
        exec i s = .next { s with args := { s.args with setup := x, incomplete := bit } }
    loads (.getDescriptorDevice len inc)
      [0x80#8, 0x06#8, 0x00#8, 0x01#8, 0#8, 0#8, len.extractLsb' 0 8, len.extractLsb' 8 8] inc ∧
    loads (.getDescriptorConfiguration v len)
      [0x80#8, 0x06#8, v, 0x02#8, 0#8, 0#8, len.extractLsb' 0 8, len.extractLsb' 8 8] false ∧
    loads (.hostSetAddress v) [0x00#8, 0x05#8, v, 0#8, 0#8, 0#8, 0#8, 0#8] false ∧
    loads (.setConfiguration v) [0x00#8, 0x09#8, v, 0#8, 0#8, 0#8, 0#8, 0#8] false ∧
    loads (.setInterface v w) [0x01#8, 0x0B#8, w, 0#8, v, 0#8, 0#8, 0#8] false ∧
    loads .setFeatureRemoteWakeup [0x00#8, 0x03#8, 0x01#8, 0#8, 0#8, 0#8, 0#8, 0#8] false ∧
    loads (.clearFeatureEndpointHalt v) [0x02#8, 0x01#8, 0#8, 0#8, v, 0#8, 0#8, 0#8] false ∧
    loads .getConfiguration [0x80#8, 0x08#8, 0#8, 0#8, 0#8, 0#8, 1#8, 0#8] false

/-- The request TRANSFER_CONTROL assembles from `ARG_SETUP` has the fields of rule R117 at the byte offsets of rule R118,
and putting any request on the wire and assembling it again gives it back. -/
def Obligations.SetupAssembly : Prop :=
  (∀ (x : BitVec 64) (inc : Bool),
    (assembleSetup x inc).bmRequestType = x.extractLsb' 0 8 ∧ (assembleSetup x inc).bRequest = x.extractLsb' 8 8 ∧
    (assembleSetup x inc).wValue = x.extractLsb' 24 8 ++ x.extractLsb' 16 8 ∧
    (assembleSetup x inc).wIndex = x.extractLsb' 40 8 ++ x.extractLsb' 32 8 ∧
    (assembleSetup x inc).wLength = x.extractLsb' 56 8 ++ x.extractLsb' 48 8 ∧
    (assembleSetup x inc).incompleteRead = inc) ∧
  (∀ r : Setup, assembleSetup r.wire r.incompleteRead = r)

/-! ### Queries and latches -/

/-- IS_HOST_READY, IS_HOST_SUSPENDED, GET_VID, GET_PID and NUM_SUPPORTED_INTERFACES (rule R390 to rule R394): each writes
its result register and nothing else. That IS_HOST_SUSPENDED is true in `Suspended` and in `WaitResume` is the definition
rule R391 gives as its own (log entry 10). -/
def Obligations.RegisterQueries : Prop :=
  ∀ s : State,
    exec .isHostReady s = .next { s with res := { s.res with bool := decide (s.ds = .ready) } } ∧
    exec .isHostSuspended s =
      .next { s with res := { s.res with bool := decide (s.ds = .suspended) || decide (s.ds = .waitResume) } } ∧
    exec .getVid s = .next { s with res := { s.res with val := s.ident.vid } } ∧
    exec .getPid s = .next { s with res := { s.res with val := s.ident.pid } } ∧
    exec .numSupportedInterfaces s = .next { s with res := { s.res with val := BitVec.ofNat 16 s.nsi } }

/-- The interface queries within range (rule R395 to rule R398): they write `RES_VAL`, zero-extended, and nothing else. -/
def Obligations.InterfaceQueries : Prop :=
  ∀ (s : State) (i e : BitVec 8), i.toNat < s.nsi →
    exec (.interfaceClass i) s = .next { s with res := { s.res with val := 0#8 ++ (s.iface i.toNat).cls } } ∧
    exec (.interfaceSubclass i) s = .next { s with res := { s.res with val := 0#8 ++ (s.iface i.toNat).subclass } } ∧
    exec (.interfaceProtocol i) s = .next { s with res := { s.res with val := 0#8 ++ (s.iface i.toNat).protocol } } ∧
    (e.toNat < (s.iface i.toNat).nbEp →
      exec (.interfacePipe i e) s =
        .next { s with res := { s.res with val := 0#8 ++ (s.iface i.toNat).pipe.getD e.toNat 0xFF#8 } })

/-- An index out of range is refused, whatever the query (rule R399). -/
def Obligations.QueriesOutOfRange : Prop :=
  ∀ (s : State) (i e : BitVec 8),
    (s.nsi ≤ i.toNat →
      exec (.interfaceClass i) s = .refused .queryIndex ∧ exec (.interfaceSubclass i) s = .refused .queryIndex ∧
      exec (.interfaceProtocol i) s = .refused .queryIndex ∧ exec (.interfacePipe i e) s = .refused .queryIndex) ∧
    ((s.iface i.toNat).nbEp ≤ e.toNat → exec (.interfacePipe i e) s = .refused .queryIndex)

/-- SUSPEND latches its request in `Ready` and has no effect in any other state; RESUME latches its own in `Suspended` and
`WaitResume` and has no effect in any other state (rule R166, rule R167). -/
def Obligations.SuspendResumeLatch : Prop :=
  ∀ s : State,
    (s.ds = .ready → exec .suspend s = .next { s with flags := { s.flags with suspReq := true } }) ∧
    (s.ds ≠ .ready → exec .suspend s = .next s) ∧
    ((s.ds = .suspended ∨ s.ds = .waitResume) → exec .resume s = .next { s with flags := { s.flags with resumeReq := true } }) ∧
    (¬ (s.ds = .suspended ∨ s.ds = .waitResume) → exec .resume s = .next s)

/-! ### The parser -/

/-- CHECK_VID_PID writes only `RES_BOOL`, with 1 exactly when some group of the table has the VID of `CACHE` bytes 8 to 9
and lists the PID of bytes 10 to 11 before the table ends (rule R260, rule R125). -/
def Obligations.CheckVidPidMembership : Prop :=
  ∀ s : State, s.fg = [] →
    ∃ m : Bool, exec .checkVidPid s = .next { s with res := { s.res with bool := m } } ∧
      (m = true ↔ ∃ g k, GroupAt s.tables.vidPid g ∧ g + 2 ≤ s.tables.vidPid.length ∧
        s.tables.vidPid.getD g 0#16 = s.cacheByte 9 ++ s.cacheByte 8 ∧
        k < (s.tables.vidPid.getD (g + 1) 0#16).toNat ∧ g + 2 + k < s.tables.vidPid.length ∧
        s.tables.vidPid.getD (g + 2 + k) 0#16 = s.cacheByte 11 ++ s.cacheByte 10)

/-- CHECK_CLASS returns for every content of `CACHE` (rule R263 to rule R271): its result is `NSI > 0`, `NSI` is at most
`MAX_INTERFACE_SUPPORTED`, and it writes `NSI`, `SI`, `PIPE[p]` for p of 1 and more, its working registers and its result,
and no byte of memory. On a descriptor of two interfaces of which the first alone is registered it reports exactly one
(rule R273): the entry of rule R267; with automatic endpoint configuration its two endpoints on pipes 1 and 2 in the order
of their records (rule R269), those pipes as rule R270 makes them, every other data pipe free (rule R264), the entry
configured (rule R268); without it no endpoint piped and no pipe touched; and one hook call per record reached (rule R266).
That no callback or hook answers is a premise (log entry 14). -/
def Obligations.CheckClassReturns : Prop :=
  ∀ s : State, Quiet s → s.cfg.legal = true → s.cacheLen ≤ s.cfg.sizeofDataStage →
    ∃ t, exec .checkClass s = .next t ∧ t.res = { s.res with bool := decide (0 < t.nsi) } ∧
      t.nsi ≤ s.cfg.maxInterface ∧ t.pipe 0 = s.pipe 0 ∧
      t = { s with nsi := t.nsi, si := t.si, pipes := t.pipes, parse := t.parse, res := t.res, hal := t.hal,
                   trace := t.trace } ∧
      (OneOfTwoMatches s → 48 ≤ s.cacheLen → 2 ≤ s.cfg.maxEp →
        let rest := [Output.hook 32] ++ (if s.cfg.maxInterface = 1 then [] else [Output.hook 41])
        t.nsi = 1 ∧ (∀ i, 1 ≤ i → t.iface i = s.iface i) ∧
        (s.cfg.autoCfgEndpoint = true → 3 ≤ s.cfg.nPipes → s.sizeAt 18 ≤ s.cfg.smallCap → s.sizeAt 25 ≤ s.cfg.smallCap →
          RecordedAs s (t.iface 0) 9 1#8 2#8 true ∧ t.pipe 1 = s.pipeAt 18 ∧ t.pipe 2 = s.pipeAt 25 ∧
          (∀ p, 3 ≤ p → p < s.cfg.nPipes → (t.pipe p).alloc = false) ∧
          Issued s t ((s.cfg.dataPipes.filter fun p => (s.pipe p).alloc).map (fun p => Output.hal (.disablePipe p)) ++
            [Output.hook 0, .hook 9, .hook 18, configured 1 (s.pipeAt 18), .hook 25, configured 2 (s.pipeAt 25)] ++ rest)) ∧
        (s.cfg.autoCfgEndpoint = false →
          RecordedAs s (t.iface 0) 9 0xFF#8 0xFF#8 false ∧ t.pipes = s.pipes ∧
          Issued s t ([Output.hook 0, .hook 9, .hook 18, .hook 25] ++ rest)))

/-- CHECK_CLASS is false, records nothing and configures no pipe when no place of `CACHE` holds a registered triple
(rule R267, rule R271); with `HOST_AUTO_CFG_ENDPOINT` no data pipe is left allocated (rule R264). -/
def Obligations.CheckClassNoMatch : Prop :=
  ∀ s : State, Quiet s → s.cfg.legal = true → s.cacheLen ≤ s.cfg.sizeofDataStage →
    (∀ off, (s.cacheByte (off + 5), s.cacheByte (off + 6), s.cacheByte (off + 7)) ∉ s.tables.classes) →
    ∃ t, exec .checkClass s = .next t ∧ t.res.bool = false ∧ t.nsi = 0 ∧ t.si = s.si ∧
      (∀ p, (t.pipe p).alloc = true → t.pipe p = s.pipe p) ∧
      (s.cfg.autoCfgEndpoint = true → ∀ p, 1 ≤ p → p < s.cfg.nPipes → (t.pipe p).alloc = false)

/-- The pipe an endpoint gets (rule R9, rule R270): `SMALL_CAP` is the smallest capacity of a data pipe, `BIG_PIPE` the
lowest data pipe of the largest; a size above `SMALL_CAP` gets `BIG_PIPE` if it is free and none otherwise; any other size
gets the lowest free data pipe, and none only if no data pipe is free. -/
def Obligations.PipeChoice : Prop :=
  ∀ (s : State) (size : Nat), s.cfg.legal = true →
    let data := fun p => 1 ≤ p ∧ p < s.cfg.nPipes
    ((∃ p, data p ∧ s.cfg.cap p = s.cfg.smallCap) ∧ ∀ p, data p → s.cfg.smallCap ≤ s.cfg.cap p) ∧
    (data s.cfg.bigPipe ∧ (∀ p, data p → s.cfg.cap p ≤ s.cfg.cap s.cfg.bigPipe) ∧
      ∀ p, data p → s.cfg.cap p = s.cfg.cap s.cfg.bigPipe → s.cfg.bigPipe ≤ p) ∧
    (s.cfg.smallCap < size →
      choosePipe s size = if (s.pipe s.cfg.bigPipe).alloc then none else some s.cfg.bigPipe) ∧
    (size ≤ s.cfg.smallCap →
      (∀ p, choosePipe s size = some p ↔
        data p ∧ (s.pipe p).alloc = false ∧ ∀ q, data q → (s.pipe q).alloc = false → p ≤ q) ∧
      (choosePipe s size = none ↔ ∀ q, data q → (s.pipe q).alloc = true))

/-! ### TICK -/

/-- TICK in `Unattached` (rule R152): the whole next state and the HAL actions issued, in order. That a pending start of
frame goes with `SOFGEN` is deduced from rule R421 (log entry 30), and that `NAKCNT` keeps its value is deduced from rule
R152, against the letter of rule R462 (log entry 29). -/
def Obligations.TickUnattached : Prop :=
  ∀ s : State, s.fg = [] → s.inputs = [] → s.ds = .unattached →
    exec .tick s = .next { s with
      ds := if s.hal.vbusHigh then .attached else .unattached
      flags := { s.flags with
        emerg := false, rearm := false, suspReq := false, resumeReq := false, wakeEvt := false }
      cnt := { s.cnt with errcnt := 0, sofcnt := 0 }
      nsi := 0
      pipes := s.pipes.map fun r => { r with alloc := false, frozen := true }
      ident := { vid := 0#16, pid := 0#16, devaddr := 0#7, ctrlMps := s.cfg.ctrlMpsInit }
      cacheLen := 0
      en := { s.en with sofgen := false, wakeie := false, discIe := true, vbusen := true }
      hal := { s.hal with sof := s.hal.sof && !s.en.sofgen }
      trace := (hals ((if s.en.sofgen then [HalAction.stopSof] else []) ++ (if s.en.wakeie then [HalAction.disarmWakeupInt] else []) ++
        (if s.en.discIe then [] else [HalAction.enableDiscInt]) ++ [HalAction.enableVbus])).reverse ++ s.trace }

/-- TICK in the states that do not block (rule R155 first line, rule R156, rule R162 to rule R164, rule R168 first line,
rule R169): the whole next state. -/
def Obligations.TickWithoutWaiting : Prop :=
  ∀ s : State, s.fg = [] → s.inputs = [] →
    (s.ds = .attached → s.hal.conn = false → s.flags.rearm = false → exec .tick s = .next s) ∧
    (s.ds = .powered →
      let n := if s.flags.evtSof then s.cnt.sofcnt + 1 else s.cnt.sofcnt
      exec .tick s = .next { s with
        flags := { s.flags with evtSof := false }
        cnt := { s.cnt with sofcnt := n }
        ds := if n = s.cfg.poweredCount ∧ s.flags.emerg = false then .default else .powered }) ∧
    (s.ds = .ready →
      exec .tick s = .next { s with
        flags := { s.flags with suspReq := false }
        ds := if s.flags.suspReq = true ∧ s.flags.emerg = false then .suspended else .ready }) ∧
    (s.ds = .error →
      exec .tick s = .next { s with
        ds := if s.cfg.errorRestart = true ∧ s.flags.emerg = false then .unattached else .error }) ∧
    (s.ds = .unsupported → exec .tick s = .next s) ∧
    (s.ds = .waitResume → s.flags.wakeEvt = false → s.flags.resumeReq = false → exec .tick s = .next s) ∧
    (s.ds = .vbusLow → exec .tick s = .next { s with ds := .unattached })

/-- TICK in `Suspended` (rule R165): the whole next state and the HAL actions issued, in order. That a pending start of
frame goes with `SOFGEN` is deduced from rule R421 (log entry 30). -/
def Obligations.TickSuspended : Prop :=
  ∀ s : State, s.fg = [] → s.inputs = [] → s.ds = .suspended →
    exec .tick s = .next { s with
      ds := if s.flags.emerg then .suspended else .waitResume
      flags := { s.flags with wakeEvt := false }
      en := { s.en with sofgen := false, wakeie := true }
      hal := { s.hal with wakeup := false, sof := false }
      trace := (hals ([HalAction.stopSof] ++ (if s.hal.wakeup then [HalAction.ackWakeup] else []) ++ [HalAction.armWakeupInt])).reverse ++ s.trace }

/-- TICK in `WaitResume` with a wake-up event or a resume request (rule R168), when the HAL reports the resume sent. When
the scripted events happen is the model's choice of schedule (log entry 6). -/
def Obligations.TickResumes : Prop :=
  ∀ s : State, s.fg = [] → s.inputs = atWait [Event.resumeSent] → s.ds = .waitResume →
    (s.flags.wakeEvt = true ∨ s.flags.resumeReq = true) → s.hal.resumeSent = false → s.flags.emerg = false →
    exec .tick s = .next { s with
      ds := .ready
      flags := { s.flags with wakeEvt := false, resumeReq := false }
      en := { s.en with sofgen := true, wakeie := false }
      inputs := []
      trace := (hals [HalAction.disarmWakeupInt, .startSof, .sendResume, .ackResumeSent]).reverse ++ s.trace }

/-- TICK in `Attached` with a connect event (rule R155, rule R153): when the reset completes and `ATTACH_SOF_WINDOW`
frames pass with no disconnect, the port is `Powered`, pipe 0 is configured, and the HAL actions are those of the rule.
When the scripted events happen is the model's choice of schedule (log entry 6). -/
def Obligations.TickAttachedReachesPowered : Prop :=
  ∀ s : State, s.fg = [] → s.ds = .attached → s.hal.conn = true → s.flags.emerg = false → OnlySof s →
    s.cfg.legal = true → s.jobs.length = s.cfg.nPipes → s.anyArmed = false →
    s.inputs = atWait (Event.resetting false :: frames s.cfg.attachWindow) →
    ∃ t, exec .tick s = .next t ∧ t.fg = [] ∧ t.ds = .powered ∧ t.en = { s.en with sofgen := true, discIe := true } ∧
      t.cnt.sofcnt = 0 ∧ t.flags = { s.flags with rearm := false, evtSof := false } ∧
      t.ident = { s.ident with devaddr := 0#7, ctrlMps := s.cfg.ctrlMpsInit } ∧
      t.pipe 0 = ⟨true, .control, false, 0#4, s.cfg.ctrlMpsInit, 1, 0#8, true⟩ ∧ (∀ p, p ≠ 0 → t.pipe p = s.pipe p) ∧
      Issued s t (hals [HalAction.ackConn, .disableDiscInt, .assertReset, .setAddress 0#7, .startSof, .enableDiscInt,
        .configurePipe 0 .control false 0#4 s.cfg.ctrlMpsInit 1 0#8]) ∧
      t = { s with ds := t.ds, en := t.en, cnt := { s.cnt with sofcnt := 0, tmo := t.cnt.tmo }, flags := t.flags,
                   ident := t.ident, pipes := t.pipes, hal := t.hal, trace := t.trace, inputs := [] }

/-- The retry path of `Default` (rule R158): a first descriptor fetch that STALLs counts one error, and goes to `Error`
when the count has reached `DEVICE_DEFAULT_MAX_ERROR_COUNT`, else back to `Attached` with `REARM` set; the transfer left
`SOFIE` as it was and `CACHE_LEN` 0, and no byte of memory changed. When the scripted events happen is the model's choice
of schedule (log entry 6). -/
def Obligations.FirstFetchRetry : Prop :=
  ∀ s : State, ControlReady s → s.cfg.legal = true → s.ds = .default → s.inputs = atWait (frame ++ [Event.stall 0]) →
    ∃ t, exec .tick s = .next t ∧ t.fg = [] ∧ t.cnt.errcnt = s.cnt.errcnt + 1 ∧
      (s.cfg.maxErrorCount ≤ s.cnt.errcnt + 1 → t.ds = .error ∧ t.flags.rearm = s.flags.rearm) ∧
      (s.cnt.errcnt + 1 < s.cfg.maxErrorCount → t.ds = .attached ∧ t.flags.rearm = true) ∧
      t.en.sofie = s.en.sofie ∧ t.cacheLen = 0 ∧ t.ident = s.ident ∧ SameMemory s t

/-- TICK in `Default` (rule R157): when the device answers the first fetch with one packet whose byte 7 is a legal packet
size, the second reset completes and SET_ADDRESS is accepted, the two SETUP packets are those of the rule, `CTRL_MPS` and
pipe 0 have the device's packet size, `DEVADDR` is `DEVICE_ADDRESS` and `DS` is `Addressed`. No job is armed, so the
second reset aborts none. The packet fits the FIFO (log entry 28). When the scripted events happen is the model's choice of
schedule (log entry 6). -/
def Obligations.TickDefaultAddresses : Prop :=
  ∀ (s : State) (bytes : List Byte), ControlReady s → s.plan = [] → s.cfg.legal = true → Memory.wf s.cache = true →
    s.ds = .default → s.anyArmed = false → 8 ≤ bytes.length → bytes.length ≤ s.cfg.cap 0 → legalMps (bytes.getD 7 0#8).toNat = true →
    s.inputs = atWait (frame ++ [Event.setupAck 0, .inPacket 0 bytes, .outReady 0, .resetting false] ++ frame ++
      [Event.setupAck 0, .inPacket 0 []]) →
    ∃ (t : State) (out : List Output), exec .tick s = .next t ∧ t.fg = [] ∧ t.ds = .addressed ∧
      t.ident = { s.ident with devaddr := s.cfg.deviceAddress, ctrlMps := (bytes.getD 7 0#8).toNat } ∧
      (t.pipe 0).mps = (bytes.getD 7 0#8).toNat ∧ t.cnt.errcnt = s.cnt.errcnt ∧
      t.cacheLen = min bytes.length s.cfg.firstDescLen ∧ CacheStored s t (bytes.take s.cfg.firstDescLen) ∧
      Issued s t out ∧
      fifoBytes 0 out = [0x80#8, 0x06#8, 0x00#8, 0x01#8, 0#8, 0#8, BitVec.ofNat 8 s.cfg.firstDescLen,
        BitVec.ofNat 8 (s.cfg.firstDescLen / 256), 0x00#8, 0x05#8, 0#1 ++ s.cfg.deviceAddress, 0#8, 0#8, 0#8, 0#8, 0#8] ∧
      t.en.sofie = s.en.sofie ∧ (∀ b o, t.hostByte b o = s.hostByte b o)

/-- TICK in `Addressed` (rule R160), when the device answers the full device-descriptor fetch, in as many packets as its
packet size takes, with a start of frame between them on a low-speed link (rule R218): the 18 bytes are in `CACHE`, `VID`
and `PID` are latched from its bytes 8 to 11, and `DS` goes to `Configured` when CHECK_VID_PID matches or the table is not
strict, else to `Unsupported`. That `RES_BOOL` and `RES_STATUS` stay as they are when TICK runs the check and the transfer
is deduced (log entry 16). When the scripted events happen is the model's choice of schedule (log entry 6). -/
def Obligations.TickAddressedIdentifies : Prop :=
  ∀ (s : State) (full : List (List Byte)) (last : List Byte), ControlReady s → s.cfg.legal = true →
    Memory.wf s.cache = true → s.ds = .addressed → legalMps s.ident.ctrlMps = true →
    EndsStage s.ident.ctrlMps 18 (s.cfg.cap 0) full last → 18 ≤ full.flatten.length + last.length →
    s.inputs = atWait (frame ++ [Event.setupAck 0] ++ arrivals 0 s.hal.lowSpeed full last ++ [Event.outReady 0]) →
    let bytes := (full.flatten ++ last).take 18
    ∃ t, exec .tick s = .next t ∧ t.fg = [] ∧ CacheStored s t bytes ∧ t.cacheLen = 18 ∧
      t.ident = { s.ident with
        vid := bytes.getD 9 0#8 ++ bytes.getD 8 0#8, pid := bytes.getD 11 0#8 ++ bytes.getD 10 0#8 } ∧
      t.ds = (if checkVidPid t = true ∨ s.cfg.strictVidPid = false then .configured else .unsupported) ∧
      t.en.sofie = s.en.sofie ∧ (∀ b o, t.hostByte b o = s.hostByte b o) ∧ t.res = s.res

/-- TICK in `Configured` (rule R161), when the device answers the configuration fetch with any number of full packets and
one that ends the stage, with a start of frame between them on a low-speed link (rule R218): with a supported interface
SET_CONFIGURATION is sent and accepted and `DS` is `Ready`; with none, nothing more is sent and `DS` is `Unsupported`. When
the scripted events happen is the model's choice of schedule (log entry 6). -/
def Obligations.TickConfiguredDecides : Prop :=
  ∀ (s : State) (full : List (List Byte)) (last : List Byte), ControlReady s → s.plan = [] → s.cfg.legal = true →
    Memory.wf s.cache = true → s.ds = .configured → legalMps s.ident.ctrlMps = true →
    EndsStage s.ident.ctrlMps (min s.cfg.sizeofDataStage 0xFFFF) (s.cfg.cap 0) full last →
    s.inputs = atWait (frame ++ [Event.setupAck 0] ++ arrivals 0 s.hal.lowSpeed full last ++ [Event.outReady 0] ++ frame ++
      [Event.setupAck 0, .inPacket 0 []]) →
    let bytes := (full.flatten ++ last).take (min s.cfg.sizeofDataStage 0xFFFF)
    ∃ (t : State) (out : List Output), exec .tick s = .next t ∧ t.fg = [] ∧ CacheStored s t bytes ∧
      t.cacheLen = bytes.length ∧ t.nsi ≤ s.cfg.maxInterface ∧ Issued s t out ∧
      (0 < t.nsi → t.ds = .ready ∧ t.inputs = [] ∧
        (fifoBytes 0 out).drop 8 = [0x00#8, 0x09#8, t.cacheByte 5, 0#8, 0#8, 0#8, 0#8, 0#8]) ∧
      (t.nsi = 0 → t.ds = .unsupported ∧ t.inputs = atWait (frame ++ [Event.setupAck 0, .inPacket 0 []]) ∧
        (fifoBytes 0 out).length = 8) ∧
      t.ident = s.ident ∧ t.en.sofie = s.en.sofie ∧ (∀ b o, t.hostByte b o = s.hostByte b o)

/-- With `EMERG` set, a TICK in a state that runs control transfers returns and leaves `DS` and memory alone (rule R151,
rule R171). -/
def Obligations.TickEndsOnEmergency : Prop :=
  ∀ s : State, Quiet s → s.cfg.legal = true → s.flags.emerg = true →
    (s.ds = .default ∨ s.ds = .addressed ∨ s.ds = .configured) →
    ∃ t, exec .tick s = .next t ∧ t.fg = [] ∧ t.ds = s.ds ∧ t.flags = { s.flags with evtSof := false } ∧
      t.cnt = s.cnt ∧ t.ident = s.ident ∧ t.en.sofie = s.en.sofie ∧ t.jobs = s.jobs ∧ SameMemory s t

/-! ### TRANSFER_CONTROL -/

/-- A request with no data stage (rule R227 (1) and (2); rule R211, rule R213, rule R214, rule R219, rule R221, rule R224):
the OUT status stage follows when bit 7 of `bmRequestType` is set, the IN status stage otherwise. Every register, the PIPE
table, the eight SETUP bytes on the FIFO in order, and every HAL action. When the scripted events happen is the model's
choice of schedule (log entry 6). That `CT_BUF` is none at the end is deduced from rule R23 (log entry 11). -/
def Obligations.ControlNoData : Prop :=
  ∀ (s : State) (b : BitVec 8) (packet : List Byte), (b = 0#8 ∨ b = 1#8) → ControlReady s → s.request.wLength = 0#16 →
    let dirIn := s.request.bmRequestType.getLsbD 7
    s.inputs = atWait (frame ++ [Event.setupAck 0, if dirIn then .outReady 0 else .inPacket 0 packet]) →
    ∃ t, exec (.transferControl b) s = .next t ∧
      Issued s t (hals (setupActions s ++ [HalAction.ackSetup 0, .setToken 0 (if dirIn then .receive else .send)] ++
        (if dirIn then statusOutActions else statusInActions))) ∧
      (∀ p, t.pipe p = if p = 0 then { s.pipe 0 with frozen := true } else s.pipe p) ∧
      t = { s with
        sr := s.request, ct := ⟨.idle, 0, 0, .none⟩
        flags := { s.flags with evtSof := true }
        en := { s.en with sofieSaveFg := s.en.sofie }
        cnt := { s.cnt with tmo := 0 }
        res := { s.res with status := 0x00#8 }
        cacheLen := if b = 0#8 ∧ dirIn = true then 0 else s.cacheLen
        jobs := countJobs s.jobs
        pipes := t.pipes, hal := t.hal, trace := t.trace, inputs := [], st := 0x00#8 }

/-- One IN packet, into `CACHE` or into a host buffer, ends the data stage when it is short, when `incomplete_read` is set,
or when it brings all that was asked for (rule R215 to rule R217, rule R219, rule R224): `Good`, the bytes asked for in the
buffer, their count in `CACHE_LEN` when the buffer is `CACHE`, nothing else of memory touched, every other register, the
PIPE table and every HAL action. The packet fits the FIFO (log entry 28). When the scripted events happen is the model's
choice of schedule (log entry 6). That `CT_BUF` is none at the end is deduced from rule R23 (log entry 11). -/
def Obligations.ControlReadOnePacket : Prop :=
  ∀ (s : State) (b : BitVec 8) (bytes : List Byte), (b = 0#8 ∨ b = 1#8) → ControlReady s → Memory.wf s.cache = true →
    Memory.wf s.hbuf = true → s.request.bmRequestType.getLsbD 7 = true → 0 < s.request.wLength.toNat →
    s.request.wLength.toNat ≤ (bufferOperand b s.args).capacity s.cfg → bytes.length ≤ s.cfg.cap 0 →
    (bytes.length < s.ident.ctrlMps ∨ s.request.incompleteRead = true ∨ s.request.wLength.toNat ≤ bytes.length) →
    s.inputs = atWait (frame ++ [Event.setupAck 0, .inPacket 0 bytes, .outReady 0]) →
    let got := bytes.take s.request.wLength.toNat
    ∃ t, exec (.transferControl b) s = .next t ∧ BufferStored s t b got ∧
      (∀ p, t.pipe p = if p = 0 then { s.pipe 0 with frozen := true } else s.pipe p) ∧
      Issued s t (hals (setupActions s ++
        [HalAction.ackSetup 0, .setToken 0 .receive, .unfreezePipe 0, .sendIn 0, .freezePipe 0] ++
        List.replicate got.length (HalAction.fifoRead 0) ++ [HalAction.ackIn 0] ++ statusOutActions)) ∧
      t = { s with
        sr := s.request, ct := ⟨.idle, 0, 0, .none⟩, flags := { s.flags with evtSof := true }
        en := { s.en with sofieSaveFg := s.en.sofie }, cnt := { s.cnt with tmo := 0 }
        res := { s.res with status := 0x00#8 }, jobs := countJobs s.jobs, cache := t.cache, hbuf := t.hbuf
        cacheLen := if b = 0#8 then got.length else s.cacheLen
        pipes := t.pipes, hal := t.hal, trace := t.trace, inputs := [], st := 0x00#8 }

/-- The round trip the document asks for (rule R230): a device that answers with any number of full packets and one that
ends the stage, with a start of frame between them on a low-speed link (rule R218), leaves exactly the bytes asked for in
`CACHE` or in the host buffer and returns `Good`. When the scripted events happen is the model's choice of schedule (log
entry 6). -/
def Obligations.ControlReadRoundTrip : Prop :=
  ∀ (s : State) (b : BitVec 8) (full : List (List Byte)) (last : List Byte), (b = 0#8 ∨ b = 1#8) → ControlReady s →
    Memory.wf s.cache = true → Memory.wf s.hbuf = true → s.cfg.legal = true → legalMps s.ident.ctrlMps = true →
    s.request.bmRequestType.getLsbD 7 = true → s.request.incompleteRead = false →
    s.request.wLength.toNat ≤ (bufferOperand b s.args).capacity s.cfg →
    EndsStage s.ident.ctrlMps s.request.wLength.toNat (s.cfg.cap 0) full last →
    s.inputs = atWait (frame ++ [Event.setupAck 0] ++ arrivals 0 s.hal.lowSpeed full last ++ [Event.outReady 0]) →
    let got := (full.flatten ++ last).take s.request.wLength.toNat
    ∃ t, exec (.transferControl b) s = .next t ∧ t.fg = [] ∧ t.res = { s.res with status := 0x00#8 } ∧
      BufferStored s t b got ∧ t.cacheLen = (if b = 0#8 then got.length else s.cacheLen) ∧
      t.en.sofie = s.en.sofie ∧ t.ds = s.ds

/-- An OUT data stage from `CACHE` or from a host buffer (rule R220, rule R221): when the device accepts every packet, the
FIFO was given the SETUP bytes and then exactly the buffer's first `wLength` bytes in order, `Good` is returned, and no byte
of memory changed. When the scripted events happen is the model's choice of schedule (log entry 6). -/
def Obligations.ControlWriteSendsBuffer : Prop :=
  ∀ (s : State) (b : BitVec 8), (b = 0#8 ∨ b = 1#8) → ControlReady s → s.cfg.legal = true →
    legalMps s.ident.ctrlMps = true → s.request.bmRequestType.getLsbD 7 = false →
    s.request.wLength.toNat ≤ (bufferOperand b s.args).capacity s.cfg →
    s.inputs = atWait (frame ++ [Event.setupAck 0] ++
      List.replicate ((s.request.wLength.toNat + s.ident.ctrlMps - 1) / s.ident.ctrlMps) (Event.outReady 0) ++
      [Event.inPacket 0 []]) →
    ∃ (t : State) (out : List Output), exec (.transferControl b) s = .next t ∧ t.fg = [] ∧
      t.res = { s.res with status := 0x00#8 } ∧ Issued s t out ∧
      fifoBytes 0 out = (List.range 8).map (fun k => s.args.setup.extractLsb' (8 * k) 8) ++
        s.bufferBytes b s.request.wLength.toNat ∧
      SameMemory s t ∧ t.cacheLen = s.cacheLen ∧ t.en.sofie = s.en.sofie ∧ t.ds = s.ds

/-- The SETUP budget (rule R223, rule R213, rule R224): with timeout detection, after the frame that ends the first step,
fewer than `CTRL_SETUP_TIMEOUT_MS` frames leave the transfer waiting in its SETUP phase with their count in `TMO`, and
that many frames end it with `Timeout`, the pipe reset and frozen and `SOFIE` as at entry. When the scripted events happen
is the model's choice of schedule (log entry 6). What the HAL keeps of a pipe after an action is the model's reading (log
entry 8). -/
def Obligations.SetupTimeoutExact : Prop :=
  ∀ (s : State) (b : BitVec 8) (n : Nat), (b = 0#8 ∨ b = 1#8) → ControlReady s → s.cfg.legal = true →
    s.cfg.timeoutDetection = true → s.request.wLength.toNat ≤ (bufferOperand b s.args).capacity s.cfg →
    n ≤ s.cfg.ctrlSetupTimeout → s.inputs = atWait (frame ++ frames n) →
    ∃ t, exec (.transferControl b) s = .next t ∧ t.inputs = [] ∧ SameMemory s t ∧
      (n < s.cfg.ctrlSetupTimeout → t.fg ≠ [] ∧ t.ct.phase = .setup ∧ t.cnt.tmo = n ∧ t.en.sofie = true) ∧
      (n = s.cfg.ctrlSetupTimeout → t.fg = [] ∧ t.ct.phase = .idle ∧ t.res.status = 0x08#8 ∧
        (t.pipe 0).frozen = true ∧ (t.halPipe 0).fifo = [] ∧ t.en.sofie = s.en.sofie)

/-- A STALL in the SETUP phase ends the transfer with `Stall`, acknowledged, the pipe reset and frozen, `SOFIE` as at
entry, and no byte of memory changed (rule R222, rule R224). When the scripted events happen is the model's choice of
schedule (log entry 6). What the HAL keeps of a pipe after an action is the model's reading (log entry 8). That `CT_BUF`
is none at the end is deduced from rule R23 (log entry 11). -/
def Obligations.ControlStall : Prop :=
  ∀ (s : State) (b : BitVec 8), (b = 0#8 ∨ b = 1#8) → ControlReady s →
    s.request.wLength.toNat ≤ (bufferOperand b s.args).capacity s.cfg →
    s.inputs = atWait (frame ++ [Event.stall 0]) →
    ∃ t, exec (.transferControl b) s = .next t ∧ t.fg = [] ∧ t.res = { s.res with status := 0x20#8 } ∧
      t.ct = ⟨.idle, 0, 0, .none⟩ ∧ (t.pipe 0).frozen = true ∧ (t.halPipe 0).frozen = true ∧
      (t.halPipe 0).stall = false ∧ (t.halPipe 0).fifo = [] ∧
      Issued s t (hals ([HalAction.resetPipe 0, .setToken 0 .setup] ++
        (List.range 8).map (fun k => HalAction.fifoWrite 0 (s.args.setup.extractLsb' (8 * k) 8)) ++
        [HalAction.unfreezePipe 0, .sendSetup 0, .ackStall 0, .resetPipe 0])) ∧
      t.en.sofie = s.en.sofie ∧ t.ds = s.ds ∧ SameMemory s t

/-- After an emergency a control transfer returns `Timeout` from its first wait and sends no SETUP packet (rule R480, rule
R212, rule R224). That `CT_BUF` is none at the end is deduced from rule R23 (log entry 11). -/
def Obligations.ControlAfterEmergency : Prop :=
  ∀ (s : State) (b : BitVec 8), (b = 0#8 ∨ b = 1#8) → Quiet s → s.flags.emerg = true →
    s.request.wLength.toNat ≤ (bufferOperand b s.args).capacity s.cfg →
    ∃ t, exec (.transferControl b) s = .next t ∧ t.fg = [] ∧ t.res = { s.res with status := 0x08#8 } ∧
      t.ct = ⟨.idle, 0, 0, .none⟩ ∧ (t.pipe 0).frozen = true ∧
      t.cacheLen = (if b = 0#8 ∧ s.request.bmRequestType.getLsbD 7 = true then 0 else s.cacheLen) ∧
      Issued s t (hals ((if (s.halPipe 0).error ≠ 0#5 then [HalAction.ackErrors 0] else []) ++
        (if (s.halPipe 0).stall then [HalAction.ackStall 0] else []) ++ [HalAction.resetPipe 0])) ∧
      t.en.sofie = s.en.sofie ∧ t.ds = s.ds ∧ t.jobs = s.jobs ∧ SameMemory s t

/-- A request longer than its buffer is refused (rule R83, rule R227 (6)). -/
def Obligations.ControlTooLongRefused : Prop :=
  ∀ (s : State) (b : BitVec 8), (b = 0#8 ∨ b = 1#8) → Quiet s →
    (bufferOperand b s.args).capacity s.cfg < s.request.wLength.toNat →
    exec (.transferControl b) s = .refused .bufferTooSmall

/-- One poll of `CtWait` (rule R222): the ready signal first, then emergency, budget, pipe error, STALL; with none of them
the wait goes on. -/
def Obligations.CtWaitOrder : Prop :=
  ∀ (s : State) (w : CtWaitFor),
    micro (.ctPoll w) s =
      if w.ready (s.halPipe 0) then .ran { s with st := 0x00#8 }
      else if s.flags.emerg then .ran (s.raise Micro.isCtExit 0x08#8)
      else if s.cfg.timeoutDetection = true ∧ w.budget s.cfg ≤ s.cnt.tmo then .ran (s.raise Micro.isCtExit 0x08#8)
      else if (s.halPipe 0).error ≠ 0#5 then .ran (s.raise Micro.isCtExit (0#3 ++ (s.halPipe 0).error))
      else if (s.halPipe 0).stall then .ran (s.raise Micro.isCtExit 0x20#8)
      else .pending { s with fg := .ctPoll w :: s.fg }

/-! ### The synchronous pump -/

/-- SEND_DATA (rule R300, rule R322): when the device accepts every packet, exactly the `ARG_LEN` bytes of the host buffer
are given to the FIFO in order, in one packet per `PIPE[p].mps` bytes, `Good` is returned, the pipe is frozen, and no byte
of memory changed. With `ARG_LEN` 0 nothing is sent. When the scripted events happen is the model's choice of schedule
(log entry 6). That the host buffer is latched at entry, and the latch 0 at the end, is deduced (log entry 11). -/
def Obligations.SendDataCompletes : Prop :=
  ∀ (s : State) (p : BitVec 8), PumpReady s p.toNat false → 0 < (s.pipe p.toNat).mps →
    s.inputs = atWait (List.replicate ((s.args.len.toNat + (s.pipe p.toNat).mps - 1) / (s.pipe p.toNat).mps)
      (Event.outReady p.toNat)) →
    ∃ (t : State) (out : List Output), exec (.sendData p) s = .next t ∧ t.res = { s.res with status := 0x00#8 } ∧
      Issued s t out ∧ fifoBytes p.toNat out = s.hostBytes s.args.buf 0 s.args.len.toNat ∧
      (out.filter (· == .hal (.sendOut p.toNat))).length =
        (s.args.len.toNat + (s.pipe p.toNat).mps - 1) / (s.pipe p.toNat).mps ∧
      (∀ q, t.pipe q = if q = p.toNat then { s.pipe q with frozen := true } else s.pipe q) ∧
      t = { s with
        sp := ⟨.idle, 0, 0, 0, 0⟩, en := { s.en with sofieSaveFg := s.en.sofie }, cnt := t.cnt, res := t.res
        pipes := t.pipes, hal := t.hal, trace := t.trace, inputs := [], st := 0x00#8 }

/-- GET_DATA (rule R310, rule R322): when the device answers with any number of full packets and one that is short or fills
the buffer, with a start of frame between them on a low-speed link (rule R311), exactly those bytes, up to `ARG_LEN`, are
stored in the host buffer, `RES_LEN` is their count, `Good` is returned, and every other byte of memory is as before. With
`ARG_LEN` 0 no token is sent. When the scripted events happen is the model's choice of schedule (log entry 6). That the
host buffer is latched at entry, and the latch 0 at the end, is deduced (log entry 11). -/
def Obligations.GetDataCompletes : Prop :=
  ∀ (s : State) (p : BitVec 8), PumpReady s p.toNat true →
    (s.args.len = 0#16 → s.inputs = [] →
      ∃ t, exec (.getData p) s = .next t ∧ Issued s t (hals [HalAction.setToken p.toNat .receive, .freezePipe p.toNat]) ∧
        (∀ q, t.pipe q = if q = p.toNat then { s.pipe q with frozen := true } else s.pipe q) ∧
        t = { s with
          sp := ⟨.idle, 0, 0, 0, 0⟩, en := { s.en with sofieSaveFg := s.en.sofie }
          res := { s.res with status := 0x00#8, len := 0#16 }
          pipes := t.pipes, hal := t.hal, trace := t.trace, st := 0x00#8 }) ∧
    (∀ (full : List (List Byte)) (last : List Byte), Memory.wf s.hbuf = true → 0 < (s.pipe p.toNat).mps →
      EndsStage (s.pipe p.toNat).mps s.args.len.toNat (s.cfg.cap p.toNat) full last →
      (s.hal.lowSpeed = true → OnlySof s) →
      s.inputs = atWait (arrivals p.toNat s.hal.lowSpeed full last) →
      let got := (full.flatten ++ last).take s.args.len.toNat
      let waits := if s.hal.lowSpeed then full.length else 0
      ∃ t, exec (.getData p) s = .next t ∧
        t.res = { s.res with status := 0x00#8, len := BitVec.ofNat 16 got.length } ∧
        HostStored s t s.args.buf 0 got ∧ (∀ o, t.cacheByte o = s.cacheByte o) ∧
        (∀ q, t.pipe q = if q = p.toNat then { s.pipe q with frozen := true } else s.pipe q) ∧
        t = { s with
          sp := ⟨.idle, 0, 0, 0, 0⟩, en := { s.en with sofieSaveFg := s.en.sofie }, cnt := t.cnt, res := t.res
          flags := { s.flags with evtSof := s.flags.evtSof || decide (0 < waits) }
          jobs := Nat.iterate countJobs waits s.jobs
          hbuf := t.hbuf, pipes := t.pipes, hal := t.hal, trace := t.trace, inputs := [], st := 0x00#8 })

/-- The delay timeout (rule R325, rule R320, rule R322): a packet wait with no answer leaves SEND_DATA waiting through
fewer than `DELAY_TIMEOUT_SOF` frames and ends it with `DelayTimeout` at that many. When the scripted events happen is the
model's choice of schedule (log entry 6). -/
def Obligations.DelayTimeoutExact : Prop :=
  ∀ (s : State) (p : BitVec 8) (n : Nat), PumpReady s p.toNat false → s.cfg.legal = true → OnlySof s →
    s.cfg.delayTimeoutEn = true → 0 < s.args.len.toNat → 0 < (s.pipe p.toNat).mps →
    n ≤ s.cfg.delayTimeoutSof → s.inputs = atWait (frames n) →
    ∃ t, exec (.sendData p) s = .next t ∧ t.inputs = [] ∧ SameMemory s t ∧
      (n < s.cfg.delayTimeoutSof → t.fg ≠ [] ∧ t.sp.phase = .sending ∧ t.cnt.tmo = n) ∧
      (n = s.cfg.delayTimeoutSof → t.fg = [] ∧ t.sp.phase = .idle ∧ t.res.status = 0x80#8 ∧
        (t.pipe p.toNat).frozen = true ∧ t.en.sofie = s.en.sofie)

/-- The NAK budget (rule R320, rule R321): on a pipe that is not of interrupt type, fewer than `NAK_RECEIVE_BUDGET` NAKs
leave GET_DATA waiting with their count in `NAKCNT`, and that many end it with `NakTimeout` and `RES_LEN` 0. When the
scripted events happen is the model's choice of schedule (log entry 6). -/
def Obligations.NakBudgetExact : Prop :=
  ∀ (s : State) (p : BitVec 8) (n : Nat), PumpReady s p.toNat true → s.cfg.legal = true →
    s.cfg.nakTimeoutEn = true → (s.pipe p.toNat).typ ≠ .interrupt → 0 < s.args.len.toNat →
    n ≤ s.cfg.nakReceiveBudget → s.inputs = atWait (List.replicate n (Event.nak p.toNat)) →
    ∃ t, exec (.getData p) s = .next t ∧ t.inputs = [] ∧ SameMemory s t ∧
      (n < s.cfg.nakReceiveBudget → t.fg ≠ [] ∧ t.cnt.nakcnt = n ∧ (t.halPipe p.toNat).nak = false) ∧
      (n = s.cfg.nakReceiveBudget → t.fg = [] ∧ t.res = { s.res with status := 0x40#8, len := 0#16 } ∧
        (t.pipe p.toNat).frozen = true ∧ t.en.sofie = s.en.sofie)

/-- The operand check of the synchronous pump (rule R302): any other pipe is refused. -/
def Obligations.PumpOperandRefused : Prop :=
  ∀ (s : State) (p : BitVec 8),
    (¬ (1 ≤ p.toNat ∧ p.toNat < s.cfg.nPipes ∧ (s.pipe p.toNat).alloc = true ∧ (s.pipe p.toNat).dirIn = false ∧
      (s.job p.toNat).enabled = false) → exec (.sendData p) s = .refused .badPipe) ∧
    (¬ (1 ≤ p.toNat ∧ p.toNat < s.cfg.nPipes ∧ (s.pipe p.toNat).alloc = true ∧ (s.pipe p.toNat).dirIn = true ∧
      (s.job p.toNat).enabled = false) → exec (.getData p) s = .refused .badPipe)

/-- One poll of `SpWait` (rule R320): the ready signal first, then emergency, delay timeout, pipe error, STALL, NAK; a NAK
that is counted is acknowledged and ends the wait when the budget is reached. -/
def Obligations.SpWaitOrder : Prop :=
  ∀ (s : State) (p : Nat) (dirIn : Bool),
    micro (.spPoll p dirIn) s =
      if (if dirIn then (s.halPipe p).inReady else (s.halPipe p).outReady) then .ran { s with st := 0x00#8 }
      else if s.flags.emerg then .ran (s.raise Micro.isSpExit 0x08#8)
      else if s.cfg.delayTimeoutEn = true ∧ s.cfg.delayTimeoutSof ≤ s.cnt.tmo then .ran (s.raise Micro.isSpExit 0x80#8)
      else if (s.halPipe p).error ≠ 0#5 then .ran (s.raise Micro.isSpExit (0#3 ++ (s.halPipe p).error))
      else if (s.halPipe p).stall then .ran (s.raise Micro.isSpExit 0x20#8)
      else if s.cfg.nakTimeoutEn = true ∧ (s.pipe p).typ ≠ .interrupt ∧ (s.halPipe p).nak = true then
        let counted := { s.doHal (.ackNak p) with cnt := { s.cnt with nakcnt := s.cnt.nakcnt + 1 } }
        if (if dirIn then s.cfg.nakReceiveBudget else s.cfg.nakSendBudget) ≤ s.cnt.nakcnt + 1 then
          .ran (counted.raise Micro.isSpExit 0x40#8)
        else .ran { counted with fg := .spPoll p dirIn :: s.fg }
      else .pending { s with fg := .spPoll p dirIn :: s.fg }

/-! ### The asynchronous pump -/

/-- Arming a pipe whose job is armed gives false and changes nothing else (rule R343, rule R357 (1)). -/
def Obligations.ArmBusyPipe : Prop :=
  ∀ (s : State) (p : BitVec 8), (s.job p.toNat).enabled = true →
    (ArmReady s p.toNat false → exec (.sendDataAsync p) s = .next { s with res := { s.res with bool := false } }) ∧
    (ArmReady s p.toNat true → exec (.getDataAsync p) s = .next { s with res := { s.res with bool := false } })

/-- SEND_DATA_ASYNC on a free pipe (rule R340, rule R343, rule R344): the job, the SOF enable and its save slot, the first
packet from the host buffer, the causes enabled, and nothing else; on an enabled pipe whose FIFO holds that packet (log
entry 28) its bytes are in `FIFO[p]` and it is in flight (rule R340, worked example). -/
def Obligations.ArmSend : Prop :=
  ∀ (s : State) (p : BitVec 8), ArmReady s p.toNat false → (s.job p.toNat).enabled = false →
    let q := p.toNat
    let n := min s.args.len.toNat (s.pipe q).mps
    ∃ t, exec (.sendDataAsync p) s = .next t ∧
      (∀ r, t.job r = if r = q then
        { enabled := true, dirIn := false, total := s.args.len.toNat, processed := 0, inflight := n, buf := s.args.buf,
          cb := s.args.cb, nak := s.cfg.nakSendBudget, timeoutCnt := 0, status := 0x00#8 } else s.job r) ∧
      (∀ r, t.pipe r = if r = q then { s.pipe q with frozen := false } else s.pipe r) ∧
      Issued s t (hals ([HalAction.resetPipe q] ++ (s.hostBytes s.args.buf 0 n).map (HalAction.fifoWrite q) ++
        [HalAction.setToken q .send, .unfreezePipe q, .sendOut q,
          .enablePipeInt q ⟨true, true, true, s.cfg.nakTimeoutEn && decide ((s.pipe q).typ ≠ .interrupt)⟩])) ∧
      ((s.halPipe q).on = true → n ≤ s.cfg.cap q →
        (t.halPipe q).fifo = s.hostBytes s.args.buf 0 n ∧ (t.halPipe q).sent = true) ∧
      t = { s with
        en := { s.en with
          sofieSaveAsync := if s.anyArmed then s.en.sofieSaveAsync else s.en.sofie, sofie := true }
        res := { s.res with bool := true }
        jobs := t.jobs, pipes := t.pipes, hal := t.hal, trace := t.trace }

/-- GET_DATA_ASYNC on a free pipe (rule R341, rule R343, rule R344): as SEND_DATA_ASYNC, with an IN token asked for and no
byte of memory written. -/
def Obligations.ArmReceive : Prop :=
  ∀ (s : State) (p : BitVec 8), ArmReady s p.toNat true → (s.job p.toNat).enabled = false →
    let q := p.toNat
    ∃ t, exec (.getDataAsync p) s = .next t ∧
      (∀ r, t.job r = if r = q then
        { enabled := true, dirIn := true, total := s.args.len.toNat, processed := 0, inflight := 0, buf := s.args.buf,
          cb := s.args.cb, nak := s.cfg.nakReceiveBudget, timeoutCnt := 0, status := 0x00#8 } else s.job r) ∧
      (∀ r, t.pipe r = if r = q then { s.pipe q with frozen := false } else s.pipe r) ∧
      Issued s t (hals [HalAction.resetPipe q, .setToken q .receive, .unfreezePipe q, .sendIn q,
        .enablePipeInt q ⟨true, true, true, s.cfg.nakTimeoutEn && decide ((s.pipe q).typ ≠ .interrupt)⟩]) ∧
      t = { s with
        en := { s.en with
          sofieSaveAsync := if s.anyArmed then s.en.sofieSaveAsync else s.en.sofie, sofie := true }
        res := { s.res with bool := true }
        jobs := t.jobs, pipes := t.pipes, hal := t.hal, trace := t.trace }

/-- The operand check of the arming commands (rule R342): any other pipe is refused, and so is the pipe the synchronous
pump is using. -/
def Obligations.ArmOperandRefused : Prop :=
  ∀ (s : State) (p : BitVec 8) (dirIn : Bool),
    let i := if dirIn then Instr.getDataAsync p else Instr.sendDataAsync p
    let ok := 1 ≤ p.toNat ∧ p.toNat < s.cfg.nPipes ∧ (s.pipe p.toNat).alloc = true ∧ (s.pipe p.toNat).dirIn = dirIn
    (¬ ok → exec i s = .refused .badPipe) ∧
    (ok → s.sp.phase ≠ .idle → s.sp.pipe = p.toNat → exec i s = .refused .pipeInSyncPump)

/-- PIPE_ISR with no job armed silences the pipe and does nothing else (rule R345); an operand that names no data pipe is
refused (rule R117). That it is refused is the model's choice (log entry 13). -/
def Obligations.PipeIsrUnarmed : Prop :=
  ∀ (s : State) (p : BitVec 8),
    (1 ≤ p.toNat → p.toNat < s.cfg.nPipes → (s.job p.toNat).enabled = false →
      ∃ t, exec (.pipeIsr p) s = .next t ∧ Issued s t [Output.hal (.disablePipeInt p.toNat)] ∧
        t = { s with hal := t.hal, trace := t.trace }) ∧
    (¬ (1 ≤ p.toNat ∧ p.toNat < s.cfg.nPipes) → exec (.pipeIsr p) s = .refused .badPipe)

/-- A ready event on an OUT job (rule R350, rule R352): the packet in flight is counted; the last one ends the job with
`Good` and its callback, any other primes the next packet from the host buffer (rule R344, rule R345); nothing else changes.
That a presented entry runs whether or not its source is pending and enabled is the model's choice (log entry 12). -/
def Obligations.PipeIsrOutReady : Prop :=
  ∀ (s : State) (p : BitVec 8), s.plan = [] → 1 ≤ p.toNat → p.toNat < s.cfg.nPipes →
    (s.job p.toNat).enabled = true → (s.job p.toNat).dirIn = false → (s.halPipe p.toNat).outReady = true →
    let q := p.toNat
    let j := s.job q
    let done := j.processed + j.inflight
    let n := min (j.total - done) (s.pipe q).mps
    ∃ t, exec (.pipeIsr p) s = .next t ∧
      (∀ r, t.job r = if r = q then
        (if done = j.total then { j with processed := done, inflight := 0, enabled := false, status := 0x00#8 }
         else { j with processed := done, inflight := n }) else s.job r) ∧
      (∀ r, t.pipe r = if r = q then { s.pipe q with frozen := decide (done = j.total) } else s.pipe r) ∧
      Issued s t (if done = j.total then
          [Output.hal (.ackOut q), .hal (.disablePipeInt q), .hal (.freezePipe q), .callback j.cb 0x00#8 done]
        else hals ([HalAction.ackOut q] ++ (s.hostBytes j.buf done n).map (HalAction.fifoWrite q) ++
          [HalAction.setToken q .send, .unfreezePipe q, .sendOut q])) ∧
      t = { s with
        en := { s.en with sofie := if done = j.total ∧ t.anyArmed = false then s.en.sofieSaveAsync else s.en.sofie }
        jobs := t.jobs, pipes := t.pipes, hal := t.hal, trace := t.trace }

/-- A ready event on an IN job (rule R351, rule R352): the bytes received are stored in the job's host buffer up to the
room left, and counted; a short packet or a full buffer ends the job with `Good` and its callback, any other packet asks
for the next one; no other byte of memory changes. On a disabled or unallocated pipe the HAL actions have no effect (rule
R422), so what the HAL holds stays and the bytes are free values (log entry 9), except that while `EMERG` is 1 the packet is
taken there too (deduced from rule R324 (1), log entry 31). That a presented entry runs whether or not its source is pending
is the model's choice (log entry 12). -/
def Obligations.PipeIsrInReady : Prop :=
  ∀ (s : State) (p : BitVec 8), s.plan = [] → Memory.wf s.hbuf = true → 1 ≤ p.toNat → p.toNat < s.cfg.nPipes →
    (s.job p.toNat).enabled = true → (s.job p.toNat).dirIn = true →
    (s.halPipe p.toNat).inReady = true → (s.halPipe p.toNat).byteCount = (s.halPipe p.toNat).fifo.length →
    (s.job p.toNat).total < 65536 → (s.job p.toNat).processed ≤ (s.job p.toNat).total →
    let q := p.toNat
    let j := s.job q
    let n := min (s.halPipe q).fifo.length (j.total - j.processed)
    let done := j.processed + n
    let ends := decide ((s.halPipe q).fifo.length < (s.pipe q).mps ∨ done = j.total)
    let taken := ((s.halPipe q).on = true ∧ (s.pipe q).alloc = true) ∨ s.flags.emerg = true
    ∃ (t : State) (bytes : List Byte), exec (.pipeIsr p) s = .next t ∧ bytes.length = n ∧
      HostStored s t j.buf j.processed bytes ∧
      (taken → bytes = (s.halPipe q).fifo.take n ∧ (t.halPipe q).inReady = false ∧ t.free = s.free) ∧
      (¬ taken → t.hal = s.hal) ∧
      (∀ r, r ≠ q → t.job r = s.job r ∧ t.pipe r = s.pipe r) ∧
      (ends = true → t.job q = { j with processed := done, inflight := 0, enabled := false, status := 0x00#8 } ∧
        t.pipe q = { s.pipe q with frozen := true } ∧
        Issued s t (hals ([HalAction.freezePipe q] ++ List.replicate n (HalAction.fifoRead q) ++
          [HalAction.ackIn q, .disablePipeInt q, .freezePipe q]) ++ [.callback j.cb 0x00#8 done])) ∧
      (ends = false → t.job q = { j with processed := done, inflight := 0 } ∧ t.pipe q = { s.pipe q with frozen := false } ∧
        Issued s t (hals ([HalAction.freezePipe q] ++ List.replicate n (HalAction.fifoRead q) ++
          [HalAction.ackIn q, .setToken q .receive, .unfreezePipe q, .sendIn q]))) ∧
      t = { s with
        en := { s.en with sofie := if ends = true ∧ t.anyArmed = false then s.en.sofieSaveAsync else s.en.sofie }
        hbuf := t.hbuf, jobs := t.jobs, pipes := t.pipes, hal := t.hal, trace := t.trace, free := t.free }

/-- A pipe error or a STALL ends the job, the error first (rule R345, rule R352): the flag acknowledged, the pipe reset
and frozen, one callback with the status and the bytes completed, nothing retried. That a presented entry runs whether or
not its source is pending is the model's choice (log entry 12). -/
def Obligations.PipeIsrErrorStall : Prop :=
  ∀ (s : State) (p : BitVec 8), s.plan = [] → 1 ≤ p.toNat → p.toNat < s.cfg.nPipes →
    (s.job p.toNat).enabled = true →
    (if (s.job p.toNat).dirIn then (s.halPipe p.toNat).inReady else (s.halPipe p.toNat).outReady) = false →
    ((s.halPipe p.toNat).error ≠ 0#5 ∨ (s.halPipe p.toNat).stall = true) →
    let q := p.toNat
    let j := s.job q
    let failed := decide ((s.halPipe q).error ≠ 0#5)
    let st : BitVec 8 := if failed then 0#3 ++ (s.halPipe q).error else 0x20#8
    ∃ t, exec (.pipeIsr p) s = .next t ∧
      (∀ r, t.job r = if r = q then { j with inflight := 0, enabled := false, status := st } else s.job r) ∧
      (∀ r, t.pipe r = if r = q then { s.pipe q with frozen := true } else s.pipe r) ∧
      Issued s t [Output.hal (if failed then .ackErrors q else .ackStall q), .hal (.disablePipeInt q), .hal (.resetPipe q),
        .callback j.cb st j.processed] ∧
      t = { s with
        en := { s.en with sofie := if t.anyArmed = false then s.en.sofieSaveAsync else s.en.sofie }
        jobs := t.jobs, pipes := t.pipes, hal := t.hal, trace := t.trace }

/-- A NAK on an armed pipe that is not of interrupt type (rule R345, rule R352): the budget goes down by one, and the NAK
that brings it to 0 ends the job with `NakTimeout`. That a presented entry runs whether or not its source is pending is
the model's choice (log entry 12). -/
def Obligations.PipeIsrNak : Prop :=
  ∀ (s : State) (p : BitVec 8), s.plan = [] → 1 ≤ p.toNat → p.toNat < s.cfg.nPipes →
    (s.job p.toNat).enabled = true →
    (if (s.job p.toNat).dirIn then (s.halPipe p.toNat).inReady else (s.halPipe p.toNat).outReady) = false →
    (s.halPipe p.toNat).error = 0#5 → (s.halPipe p.toNat).stall = false → (s.halPipe p.toNat).nak = true →
    s.cfg.nakTimeoutEn = true → (s.pipe p.toNat).typ ≠ .interrupt →
    let q := p.toNat
    let j := s.job q
    let out := decide (j.nak ≤ 1)
    ∃ t, exec (.pipeIsr p) s = .next t ∧
      (∀ r, t.job r = if r = q then
        (if out then { j with nak := 0, inflight := 0, enabled := false, status := 0x40#8 }
         else { j with nak := j.nak - 1 }) else s.job r) ∧
      (∀ r, t.pipe r = if r = q then { s.pipe q with frozen := (s.pipe q).frozen || out } else s.pipe r) ∧
      Issued s t (if out then [Output.hal (.ackNak q), .hal (.disablePipeInt q), .hal (.resetPipe q),
        .callback j.cb 0x40#8 j.processed] else [Output.hal (.ackNak q)]) ∧
      t = { s with
        en := { s.en with sofie := if out = true ∧ t.anyArmed = false then s.en.sofieSaveAsync else s.en.sofie }
        jobs := t.jobs, pipes := t.pipes, hal := t.hal, trace := t.trace }

/-- ABORT_ALL_PIPES (rule R360, rule R352): with no job armed it changes nothing and issues nothing; for each armed job,
ascending, the pipe is silenced and reset and one callback is issued with `Aborted` and the bytes completed; no job is
armed afterwards, `SOFIE` is restored after the last, and nothing else changes. -/
def Obligations.AbortEveryJob : Prop :=
  ∀ s : State, Quiet s → s.cfg.legal = true → s.jobs.length = s.cfg.nPipes →
    (s.anyArmed = false → exec .abortAllPipes s = .next s) ∧
    ∃ t, exec .abortAllPipes s = .next t ∧ Issued s t (abortOutputs s) ∧ t.anyArmed = false ∧
      (∀ p, 1 ≤ p → p < s.cfg.nPipes → t.job p =
        if (s.job p).enabled then { s.job p with enabled := false, status := 0xFF#8, inflight := 0 } else s.job p) ∧
      (∀ p, t.pipe p = if 1 ≤ p ∧ p < s.cfg.nPipes ∧ (s.job p).enabled = true then { s.pipe p with frozen := true }
        else s.pipe p) ∧
      t = { s with
        en := { s.en with sofie := sofieAfter s }
        jobs := t.jobs, pipes := t.pipes, hal := t.hal, trace := t.trace }

/-! ### Interrupt entries -/

/-- EV_SOF (rule R421): `EVT_SOF` always; while `SOFIE` is 1 also `TMO` and the `timeout_cnt` of every armed job, each
saturating at 0xFFFF; nothing else but its own pending flag. That a presented entry runs
whether or not its source is pending is the model's choice (log entry 12). -/
def Obligations.SofBookkeeping : Prop :=
  ∀ s : State, ∃ t, exec .evSof s = .next t ∧
    t.cnt = { s.cnt with tmo := if s.en.sofie = true ∧ s.cnt.tmo < 0xFFFF then s.cnt.tmo + 1 else s.cnt.tmo } ∧
    (∀ p, t.job p = if s.en.sofie = true ∧ 1 ≤ p ∧ (s.job p).enabled = true ∧ (s.job p).timeoutCnt < 0xFFFF then
      { s.job p with timeoutCnt := (s.job p).timeoutCnt + 1 } else s.job p) ∧
    t = { s with
      flags := { s.flags with evtSof := true }, cnt := t.cnt, jobs := t.jobs, hal := { s.hal with sof := false } }

/-- `Disconnect` as EV_DISCONNECT, EV_ROLE_CHANGE and EV_VBUS_ERROR run it (rule R422 to rule R424): the cause
acknowledged, every job ended with `Aborted`, `NSI` 0, every pipe freed, `EMERG` set, and `DS` at `Unattached`, or at
`VbusLow` for a VBUS error when `HAS_VBUS_LOW`; every other register and every byte of memory as before. That a presented
entry runs whether or not its source is pending is the model's choice (log entry 12). -/
def Obligations.DisconnectEntries : Prop :=
  ∀ s : State, s.plan = [] → s.jobs.length = s.cfg.nPipes → s.pipes.length = s.cfg.nPipes →
    let after := fun (i : Instr) (ack : HalAction) (d : DevState) =>
      ∃ t, exec i s = .next t ∧ t.ds = d ∧
        (∀ p, 1 ≤ p → p < s.cfg.nPipes → (t.job p).enabled = false) ∧
        (∀ p, p < s.cfg.nPipes → (t.pipe p).alloc = false ∧ ((s.pipe p).alloc = true → (t.pipe p).frozen = true)) ∧
        Issued s t ([Output.hal ack] ++ abortOutputs s ++
          (List.range s.cfg.nPipes).flatMap fun p => if (s.pipe p).alloc then [Output.hal (.disablePipe p)] else []) ∧
        t = { s with
          ds := d, flags := { s.flags with emerg := true }, nsi := 0, en := { s.en with sofie := sofieAfter s }
          jobs := t.jobs, pipes := t.pipes, hal := t.hal, trace := t.trace }
    after .evDisconnect .ackDisc .unattached ∧ after .evRoleChange .ackRoleChange .unattached ∧
    after .evVbusError .ackVbusError (if s.cfg.hasVbusLow then .vbusLow else .unattached)

/-- EV_WAKEUP (rule R425): the whole next state. That a presented entry runs whether or not its source is pending is the
model's choice (log entry 12). -/
def Obligations.WakeupEntry : Prop :=
  ∀ s : State, exec .evWakeup s = .next { s with
    flags := { s.flags with wakeEvt := true }
    hal := { s.hal with wakeup := false }
    trace := .hal .ackWakeup :: s.trace }

/-- The order in which pending, enabled sources are presented (rule R430): VBUS error, disconnect while `DISC_IE`, role
change, wake-up while `WAKEIE`, start of frame, then the lowest pipe that interrupts; none only if none is pending. While
`SOFGEN` is 0 no start of frame is presented (rule R421) and, deduced from rule R474, no pipe (log entry 30). -/
def Obligations.SequencerOrder : Prop :=
  ∀ s : State,
    (s.hal.vbusError = true → s.pendingSource = some .vbusError) ∧
    (s.hal.vbusError = false →
      let disc := s.hal.disc && s.en.discIe
      let wake := s.hal.wakeup && s.en.wakeie
      (disc = true → s.pendingSource = some .disconnect) ∧
      (disc = false → s.hal.roleChange = true → s.pendingSource = some .roleChange) ∧
      (disc = false → s.hal.roleChange = false → wake = true → s.pendingSource = some .wakeup) ∧
      (disc = false → s.hal.roleChange = false → wake = false →
        (s.en.sofgen = false → s.pendingSource = none) ∧
        (s.en.sofgen = true → s.hal.sof = true → s.pendingSource = some .sof) ∧
        (s.en.sofgen = true → s.hal.sof = false →
          (∀ p, s.pendingSource = some (.pipe p) ↔
            1 ≤ p ∧ p < s.cfg.nPipes ∧ (s.halPipe p).interrupts = true ∧
            ∀ q, 1 ≤ q → q < p → (s.halPipe q).interrupts = false) ∧
          (s.pendingSource = none ↔ ∀ p, 1 ≤ p → p < s.cfg.nPipes → (s.halPipe p).interrupts = false))))

/-! ### Reset and the whole machine -/

/-- What rule R70 gives the registers after reset, for every configuration, that reset issues no HAL action and leaves
every pipe's interrupt set empty (rule R460). The same holds when the context is constructed again later, whatever was
armed; the buffers and what was issued before stay. -/
def Obligations.ResetValues : Prop :=
  ∀ (c : Config) (tb : Tables) (vbus low high : Bool),
    let fresh := fun s : State =>
      s.ds = .unattached ∧ s.ct.phase = .idle ∧ s.sp.phase = .idle ∧ s.ct.rem = 0 ∧ s.ct.off = 0 ∧ s.sp.rem = 0 ∧
      s.sp.off = 0 ∧ s.sp.pipe = 0 ∧ s.flags = ⟨false, false, false, false, false, false⟩ ∧ s.en.sofie = false ∧
      s.en.sofgen = false ∧ s.en.vbusen = false ∧ s.en.wakeie = false ∧ s.en.discIe = true ∧ s.cnt = ⟨0, 0, 0, 0⟩ ∧
      s.ident = ⟨0#16, 0#16, 0#7, s.cfg.ctrlMpsInit⟩ ∧ s.cacheLen = 0 ∧ s.nsi = 0 ∧
      (∀ p, (s.pipe p).alloc = false ∧ (s.pipe p).frozen = true) ∧ (∀ p, (s.job p).enabled = false) ∧
      (∀ p, (s.halPipe p).causes = ⟨false, false, false, false⟩) ∧ s.fg = []
    (fresh (State.resetWith c tb vbus low high) ∧ (State.resetWith c tb vbus low high).trace = [] ∧
      (State.resetWith c tb vbus low high).cfg = c) ∧
    (∀ s : State, s.fg = [] →
      ∃ t, occur .construct s = .next t ∧ fresh t ∧ t.cfg = s.cfg ∧ t.tables = s.tables ∧ t.trace = s.trace ∧
        t.hbuf = s.hbuf)

/-- The invariant holds after reset, for every legal configuration, and so at `State.reset`. `State.reset` has the
parameters of `CFG-T`, the model's choice (log entry 1). -/
def Obligations.InvAtReset : Prop :=
  Inv State.reset ∧
  ∀ (c : Config) (tb : Tables) (vbus low high : Bool), c.legal = true → Inv (State.resetWith c tb vbus low high)

/-- Every step keeps the invariant: canonical memories, one `PIPE` and one `JOB` per pipe, saturating counters (rule R48),
a legal `CTRL_MPS` (rule R31), `VbusLow` only with `HAS_VBUS_LOW` (rule R113), no start of frame pending while `SOFGEN` is 0
(rule R421; deduced, log entry 30), every FIFO within its capacity (rule R80 (3); log entry 28). -/
def Obligations.StepKeepsInv : Prop := ∀ s t : State, Inv s → step s = .next t → Inv t

/-- No step changes the parameters (rule R465 (1): they "never change afterwards"). -/
def Obligations.StepKeepsParameters : Prop := ∀ s t : State, step s = .next t → t.cfg = s.cfg

/-- `EMERG`, once set, stays set until a TICK is run in `Unattached` (rule R25): a step that presents no TICK in that
state, has none in progress and does not construct the context anew leaves it set, and leaves no such TICK in progress. -/
def Obligations.EmergencyHoldsUntilUnattached : Prop :=
  ∀ s t : State, s.flags.emerg = true → Micro.act .critClear ∉ s.fg →
    (s.ds = .unattached → ∀ w, s.bus = some w → decode w ≠ .ok .tick) →
    (∀ i ∈ s.inputs, i.event ≠ .construct) → step s = .next t →
    t.flags.emerg = true ∧ Micro.act .critClear ∉ t.fg

/-- Only TICK and the three emergency entries write `DS` (rule R21, rule R170): any other operation, run with no input of
the environment, leaves it as it is. An input of the environment could bring an emergency entry into the same step (log
entry 6), hence the premise. -/
def Obligations.OnlyTickAndEmergenciesMoveDs : Prop :=
  ∀ (i : Instr) (s t : State), i ≠ .tick → i ≠ .evDisconnect → i ≠ .evRoleChange → i ≠ .evVbusError →
    s.inputs = [] → exec i s = .next t → t.ds = s.ds
end

