-- ==== Sys2Proof/Laws/State.lean ====
section
/-! SUPPORT. What each named update of the state does to each field: one lemma per field per update, true by `rfl`; and
what it leaves of the views of the tables and memories that read another field. -/

namespace Sys2Proof.Machine

-- Elaborated one after another: hundreds of theorems at once exhaust the threads the memory limit allows.
set_option Elab.async false

/-! ### `State.setTables` -/

@[simp] theorem State.setTables_cfg (s : State) (v : Tables) : (s.setTables v).cfg = s.cfg := rfl
@[simp] theorem State.setTables_tables (s : State) (v : Tables) : (s.setTables v).tables = v := rfl
@[simp] theorem State.setTables_ds (s : State) (v : Tables) : (s.setTables v).ds = s.ds := rfl
@[simp] theorem State.setTables_ct (s : State) (v : Tables) : (s.setTables v).ct = s.ct := rfl
@[simp] theorem State.setTables_sp (s : State) (v : Tables) : (s.setTables v).sp = s.sp := rfl
@[simp] theorem State.setTables_flags (s : State) (v : Tables) : (s.setTables v).flags = s.flags := rfl
@[simp] theorem State.setTables_en (s : State) (v : Tables) : (s.setTables v).en = s.en := rfl
@[simp] theorem State.setTables_cnt (s : State) (v : Tables) : (s.setTables v).cnt = s.cnt := rfl
@[simp] theorem State.setTables_ident (s : State) (v : Tables) : (s.setTables v).ident = s.ident := rfl
@[simp] theorem State.setTables_sr (s : State) (v : Tables) : (s.setTables v).sr = s.sr := rfl
@[simp] theorem State.setTables_cacheLen (s : State) (v : Tables) : (s.setTables v).cacheLen = s.cacheLen := rfl
@[simp] theorem State.setTables_nsi (s : State) (v : Tables) : (s.setTables v).nsi = s.nsi := rfl
@[simp] theorem State.setTables_si (s : State) (v : Tables) : (s.setTables v).si = s.si := rfl
@[simp] theorem State.setTables_parse (s : State) (v : Tables) : (s.setTables v).parse = s.parse := rfl
@[simp] theorem State.setTables_pipes (s : State) (v : Tables) : (s.setTables v).pipes = s.pipes := rfl
@[simp] theorem State.setTables_jobs (s : State) (v : Tables) : (s.setTables v).jobs = s.jobs := rfl
@[simp] theorem State.setTables_args (s : State) (v : Tables) : (s.setTables v).args = s.args := rfl
@[simp] theorem State.setTables_res (s : State) (v : Tables) : (s.setTables v).res = s.res := rfl
@[simp] theorem State.setTables_cache (s : State) (v : Tables) : (s.setTables v).cache = s.cache := rfl
@[simp] theorem State.setTables_hbuf (s : State) (v : Tables) : (s.setTables v).hbuf = s.hbuf := rfl
@[simp] theorem State.setTables_hal (s : State) (v : Tables) : (s.setTables v).hal = s.hal := rfl
@[simp] theorem State.setTables_fg (s : State) (v : Tables) : (s.setTables v).fg = s.fg := rfl
@[simp] theorem State.setTables_st (s : State) (v : Tables) : (s.setTables v).st = s.st := rfl
@[simp] theorem State.setTables_bus (s : State) (v : Tables) : (s.setTables v).bus = s.bus := rfl
@[simp] theorem State.setTables_inputs (s : State) (v : Tables) : (s.setTables v).inputs = s.inputs := rfl
@[simp] theorem State.setTables_plan (s : State) (v : Tables) : (s.setTables v).plan = s.plan := rfl
@[simp] theorem State.setTables_trace (s : State) (v : Tables) : (s.setTables v).trace = s.trace := rfl
@[simp] theorem State.setTables_free (s : State) (v : Tables) : (s.setTables v).free = s.free := rfl
@[simp] theorem State.setTables_pipe (s : State) (v : Tables) (q : Nat) : (s.setTables v).pipe q = s.pipe q := rfl
@[simp] theorem State.setTables_job (s : State) (v : Tables) (q : Nat) : (s.setTables v).job q = s.job q := rfl
@[simp] theorem State.setTables_iface (s : State) (v : Tables) (q : Nat) : (s.setTables v).iface q = s.iface q := rfl
@[simp] theorem State.setTables_halPipe (s : State) (v : Tables) (q : Nat) : (s.setTables v).halPipe q = s.halPipe q := rfl
@[simp] theorem State.setTables_cacheByte (s : State) (v : Tables) (k : Nat) : (s.setTables v).cacheByte k = s.cacheByte k := rfl
@[simp] theorem State.setTables_hostByte (s : State) (v : Tables) (c k : Nat) : (s.setTables v).hostByte c k = s.hostByte c k := rfl
@[simp] theorem State.setTables_anyArmed (s : State) (v : Tables) : (s.setTables v).anyArmed = s.anyArmed := rfl

/-! ### `State.setDs` -/

@[simp] theorem State.setDs_cfg (s : State) (v : DevState) : (s.setDs v).cfg = s.cfg := rfl
@[simp] theorem State.setDs_tables (s : State) (v : DevState) : (s.setDs v).tables = s.tables := rfl
@[simp] theorem State.setDs_ds (s : State) (v : DevState) : (s.setDs v).ds = v := rfl
@[simp] theorem State.setDs_ct (s : State) (v : DevState) : (s.setDs v).ct = s.ct := rfl
@[simp] theorem State.setDs_sp (s : State) (v : DevState) : (s.setDs v).sp = s.sp := rfl
@[simp] theorem State.setDs_flags (s : State) (v : DevState) : (s.setDs v).flags = s.flags := rfl
@[simp] theorem State.setDs_en (s : State) (v : DevState) : (s.setDs v).en = s.en := rfl
@[simp] theorem State.setDs_cnt (s : State) (v : DevState) : (s.setDs v).cnt = s.cnt := rfl
@[simp] theorem State.setDs_ident (s : State) (v : DevState) : (s.setDs v).ident = s.ident := rfl
@[simp] theorem State.setDs_sr (s : State) (v : DevState) : (s.setDs v).sr = s.sr := rfl
@[simp] theorem State.setDs_cacheLen (s : State) (v : DevState) : (s.setDs v).cacheLen = s.cacheLen := rfl
@[simp] theorem State.setDs_nsi (s : State) (v : DevState) : (s.setDs v).nsi = s.nsi := rfl
@[simp] theorem State.setDs_si (s : State) (v : DevState) : (s.setDs v).si = s.si := rfl
@[simp] theorem State.setDs_parse (s : State) (v : DevState) : (s.setDs v).parse = s.parse := rfl
@[simp] theorem State.setDs_pipes (s : State) (v : DevState) : (s.setDs v).pipes = s.pipes := rfl
@[simp] theorem State.setDs_jobs (s : State) (v : DevState) : (s.setDs v).jobs = s.jobs := rfl
@[simp] theorem State.setDs_args (s : State) (v : DevState) : (s.setDs v).args = s.args := rfl
@[simp] theorem State.setDs_res (s : State) (v : DevState) : (s.setDs v).res = s.res := rfl
@[simp] theorem State.setDs_cache (s : State) (v : DevState) : (s.setDs v).cache = s.cache := rfl
@[simp] theorem State.setDs_hbuf (s : State) (v : DevState) : (s.setDs v).hbuf = s.hbuf := rfl
@[simp] theorem State.setDs_hal (s : State) (v : DevState) : (s.setDs v).hal = s.hal := rfl
@[simp] theorem State.setDs_fg (s : State) (v : DevState) : (s.setDs v).fg = s.fg := rfl
@[simp] theorem State.setDs_st (s : State) (v : DevState) : (s.setDs v).st = s.st := rfl
@[simp] theorem State.setDs_bus (s : State) (v : DevState) : (s.setDs v).bus = s.bus := rfl
@[simp] theorem State.setDs_inputs (s : State) (v : DevState) : (s.setDs v).inputs = s.inputs := rfl
@[simp] theorem State.setDs_plan (s : State) (v : DevState) : (s.setDs v).plan = s.plan := rfl
@[simp] theorem State.setDs_trace (s : State) (v : DevState) : (s.setDs v).trace = s.trace := rfl
@[simp] theorem State.setDs_free (s : State) (v : DevState) : (s.setDs v).free = s.free := rfl
@[simp] theorem State.setDs_pipe (s : State) (v : DevState) (q : Nat) : (s.setDs v).pipe q = s.pipe q := rfl
@[simp] theorem State.setDs_job (s : State) (v : DevState) (q : Nat) : (s.setDs v).job q = s.job q := rfl
@[simp] theorem State.setDs_iface (s : State) (v : DevState) (q : Nat) : (s.setDs v).iface q = s.iface q := rfl
@[simp] theorem State.setDs_halPipe (s : State) (v : DevState) (q : Nat) : (s.setDs v).halPipe q = s.halPipe q := rfl
@[simp] theorem State.setDs_cacheByte (s : State) (v : DevState) (k : Nat) : (s.setDs v).cacheByte k = s.cacheByte k := rfl
@[simp] theorem State.setDs_hostByte (s : State) (v : DevState) (c k : Nat) : (s.setDs v).hostByte c k = s.hostByte c k := rfl
@[simp] theorem State.setDs_anyArmed (s : State) (v : DevState) : (s.setDs v).anyArmed = s.anyArmed := rfl

/-! ### `State.setCt` -/

@[simp] theorem State.setCt_cfg (s : State) (v : CtRegs) : (s.setCt v).cfg = s.cfg := rfl
@[simp] theorem State.setCt_tables (s : State) (v : CtRegs) : (s.setCt v).tables = s.tables := rfl
@[simp] theorem State.setCt_ds (s : State) (v : CtRegs) : (s.setCt v).ds = s.ds := rfl
@[simp] theorem State.setCt_ct (s : State) (v : CtRegs) : (s.setCt v).ct = v := rfl
@[simp] theorem State.setCt_sp (s : State) (v : CtRegs) : (s.setCt v).sp = s.sp := rfl
@[simp] theorem State.setCt_flags (s : State) (v : CtRegs) : (s.setCt v).flags = s.flags := rfl
@[simp] theorem State.setCt_en (s : State) (v : CtRegs) : (s.setCt v).en = s.en := rfl
@[simp] theorem State.setCt_cnt (s : State) (v : CtRegs) : (s.setCt v).cnt = s.cnt := rfl
@[simp] theorem State.setCt_ident (s : State) (v : CtRegs) : (s.setCt v).ident = s.ident := rfl
@[simp] theorem State.setCt_sr (s : State) (v : CtRegs) : (s.setCt v).sr = s.sr := rfl
@[simp] theorem State.setCt_cacheLen (s : State) (v : CtRegs) : (s.setCt v).cacheLen = s.cacheLen := rfl
@[simp] theorem State.setCt_nsi (s : State) (v : CtRegs) : (s.setCt v).nsi = s.nsi := rfl
@[simp] theorem State.setCt_si (s : State) (v : CtRegs) : (s.setCt v).si = s.si := rfl
@[simp] theorem State.setCt_parse (s : State) (v : CtRegs) : (s.setCt v).parse = s.parse := rfl
@[simp] theorem State.setCt_pipes (s : State) (v : CtRegs) : (s.setCt v).pipes = s.pipes := rfl
@[simp] theorem State.setCt_jobs (s : State) (v : CtRegs) : (s.setCt v).jobs = s.jobs := rfl
@[simp] theorem State.setCt_args (s : State) (v : CtRegs) : (s.setCt v).args = s.args := rfl
@[simp] theorem State.setCt_res (s : State) (v : CtRegs) : (s.setCt v).res = s.res := rfl
@[simp] theorem State.setCt_cache (s : State) (v : CtRegs) : (s.setCt v).cache = s.cache := rfl
@[simp] theorem State.setCt_hbuf (s : State) (v : CtRegs) : (s.setCt v).hbuf = s.hbuf := rfl
@[simp] theorem State.setCt_hal (s : State) (v : CtRegs) : (s.setCt v).hal = s.hal := rfl
@[simp] theorem State.setCt_fg (s : State) (v : CtRegs) : (s.setCt v).fg = s.fg := rfl
@[simp] theorem State.setCt_st (s : State) (v : CtRegs) : (s.setCt v).st = s.st := rfl
@[simp] theorem State.setCt_bus (s : State) (v : CtRegs) : (s.setCt v).bus = s.bus := rfl
@[simp] theorem State.setCt_inputs (s : State) (v : CtRegs) : (s.setCt v).inputs = s.inputs := rfl
@[simp] theorem State.setCt_plan (s : State) (v : CtRegs) : (s.setCt v).plan = s.plan := rfl
@[simp] theorem State.setCt_trace (s : State) (v : CtRegs) : (s.setCt v).trace = s.trace := rfl
@[simp] theorem State.setCt_free (s : State) (v : CtRegs) : (s.setCt v).free = s.free := rfl
@[simp] theorem State.setCt_pipe (s : State) (v : CtRegs) (q : Nat) : (s.setCt v).pipe q = s.pipe q := rfl
@[simp] theorem State.setCt_job (s : State) (v : CtRegs) (q : Nat) : (s.setCt v).job q = s.job q := rfl
@[simp] theorem State.setCt_iface (s : State) (v : CtRegs) (q : Nat) : (s.setCt v).iface q = s.iface q := rfl
@[simp] theorem State.setCt_halPipe (s : State) (v : CtRegs) (q : Nat) : (s.setCt v).halPipe q = s.halPipe q := rfl
@[simp] theorem State.setCt_cacheByte (s : State) (v : CtRegs) (k : Nat) : (s.setCt v).cacheByte k = s.cacheByte k := rfl
@[simp] theorem State.setCt_hostByte (s : State) (v : CtRegs) (c k : Nat) : (s.setCt v).hostByte c k = s.hostByte c k := rfl
@[simp] theorem State.setCt_anyArmed (s : State) (v : CtRegs) : (s.setCt v).anyArmed = s.anyArmed := rfl

/-! ### `State.setSp` -/

@[simp] theorem State.setSp_cfg (s : State) (v : SpRegs) : (s.setSp v).cfg = s.cfg := rfl
@[simp] theorem State.setSp_tables (s : State) (v : SpRegs) : (s.setSp v).tables = s.tables := rfl
@[simp] theorem State.setSp_ds (s : State) (v : SpRegs) : (s.setSp v).ds = s.ds := rfl
@[simp] theorem State.setSp_ct (s : State) (v : SpRegs) : (s.setSp v).ct = s.ct := rfl
@[simp] theorem State.setSp_sp (s : State) (v : SpRegs) : (s.setSp v).sp = v := rfl
@[simp] theorem State.setSp_flags (s : State) (v : SpRegs) : (s.setSp v).flags = s.flags := rfl
@[simp] theorem State.setSp_en (s : State) (v : SpRegs) : (s.setSp v).en = s.en := rfl
@[simp] theorem State.setSp_cnt (s : State) (v : SpRegs) : (s.setSp v).cnt = s.cnt := rfl
@[simp] theorem State.setSp_ident (s : State) (v : SpRegs) : (s.setSp v).ident = s.ident := rfl
@[simp] theorem State.setSp_sr (s : State) (v : SpRegs) : (s.setSp v).sr = s.sr := rfl
@[simp] theorem State.setSp_cacheLen (s : State) (v : SpRegs) : (s.setSp v).cacheLen = s.cacheLen := rfl
@[simp] theorem State.setSp_nsi (s : State) (v : SpRegs) : (s.setSp v).nsi = s.nsi := rfl
@[simp] theorem State.setSp_si (s : State) (v : SpRegs) : (s.setSp v).si = s.si := rfl
@[simp] theorem State.setSp_parse (s : State) (v : SpRegs) : (s.setSp v).parse = s.parse := rfl
@[simp] theorem State.setSp_pipes (s : State) (v : SpRegs) : (s.setSp v).pipes = s.pipes := rfl
@[simp] theorem State.setSp_jobs (s : State) (v : SpRegs) : (s.setSp v).jobs = s.jobs := rfl
@[simp] theorem State.setSp_args (s : State) (v : SpRegs) : (s.setSp v).args = s.args := rfl
@[simp] theorem State.setSp_res (s : State) (v : SpRegs) : (s.setSp v).res = s.res := rfl
@[simp] theorem State.setSp_cache (s : State) (v : SpRegs) : (s.setSp v).cache = s.cache := rfl
@[simp] theorem State.setSp_hbuf (s : State) (v : SpRegs) : (s.setSp v).hbuf = s.hbuf := rfl
@[simp] theorem State.setSp_hal (s : State) (v : SpRegs) : (s.setSp v).hal = s.hal := rfl
@[simp] theorem State.setSp_fg (s : State) (v : SpRegs) : (s.setSp v).fg = s.fg := rfl
@[simp] theorem State.setSp_st (s : State) (v : SpRegs) : (s.setSp v).st = s.st := rfl
@[simp] theorem State.setSp_bus (s : State) (v : SpRegs) : (s.setSp v).bus = s.bus := rfl
@[simp] theorem State.setSp_inputs (s : State) (v : SpRegs) : (s.setSp v).inputs = s.inputs := rfl
@[simp] theorem State.setSp_plan (s : State) (v : SpRegs) : (s.setSp v).plan = s.plan := rfl
@[simp] theorem State.setSp_trace (s : State) (v : SpRegs) : (s.setSp v).trace = s.trace := rfl
@[simp] theorem State.setSp_free (s : State) (v : SpRegs) : (s.setSp v).free = s.free := rfl
@[simp] theorem State.setSp_pipe (s : State) (v : SpRegs) (q : Nat) : (s.setSp v).pipe q = s.pipe q := rfl
@[simp] theorem State.setSp_job (s : State) (v : SpRegs) (q : Nat) : (s.setSp v).job q = s.job q := rfl
@[simp] theorem State.setSp_iface (s : State) (v : SpRegs) (q : Nat) : (s.setSp v).iface q = s.iface q := rfl
@[simp] theorem State.setSp_halPipe (s : State) (v : SpRegs) (q : Nat) : (s.setSp v).halPipe q = s.halPipe q := rfl
@[simp] theorem State.setSp_cacheByte (s : State) (v : SpRegs) (k : Nat) : (s.setSp v).cacheByte k = s.cacheByte k := rfl
@[simp] theorem State.setSp_hostByte (s : State) (v : SpRegs) (c k : Nat) : (s.setSp v).hostByte c k = s.hostByte c k := rfl
@[simp] theorem State.setSp_anyArmed (s : State) (v : SpRegs) : (s.setSp v).anyArmed = s.anyArmed := rfl

/-! ### `State.setFlags` -/

@[simp] theorem State.setFlags_cfg (s : State) (v : FlagRegs) : (s.setFlags v).cfg = s.cfg := rfl
@[simp] theorem State.setFlags_tables (s : State) (v : FlagRegs) : (s.setFlags v).tables = s.tables := rfl
@[simp] theorem State.setFlags_ds (s : State) (v : FlagRegs) : (s.setFlags v).ds = s.ds := rfl
@[simp] theorem State.setFlags_ct (s : State) (v : FlagRegs) : (s.setFlags v).ct = s.ct := rfl
@[simp] theorem State.setFlags_sp (s : State) (v : FlagRegs) : (s.setFlags v).sp = s.sp := rfl
@[simp] theorem State.setFlags_flags (s : State) (v : FlagRegs) : (s.setFlags v).flags = v := rfl
@[simp] theorem State.setFlags_en (s : State) (v : FlagRegs) : (s.setFlags v).en = s.en := rfl
@[simp] theorem State.setFlags_cnt (s : State) (v : FlagRegs) : (s.setFlags v).cnt = s.cnt := rfl
@[simp] theorem State.setFlags_ident (s : State) (v : FlagRegs) : (s.setFlags v).ident = s.ident := rfl
@[simp] theorem State.setFlags_sr (s : State) (v : FlagRegs) : (s.setFlags v).sr = s.sr := rfl
@[simp] theorem State.setFlags_cacheLen (s : State) (v : FlagRegs) : (s.setFlags v).cacheLen = s.cacheLen := rfl
@[simp] theorem State.setFlags_nsi (s : State) (v : FlagRegs) : (s.setFlags v).nsi = s.nsi := rfl
@[simp] theorem State.setFlags_si (s : State) (v : FlagRegs) : (s.setFlags v).si = s.si := rfl
@[simp] theorem State.setFlags_parse (s : State) (v : FlagRegs) : (s.setFlags v).parse = s.parse := rfl
@[simp] theorem State.setFlags_pipes (s : State) (v : FlagRegs) : (s.setFlags v).pipes = s.pipes := rfl
@[simp] theorem State.setFlags_jobs (s : State) (v : FlagRegs) : (s.setFlags v).jobs = s.jobs := rfl
@[simp] theorem State.setFlags_args (s : State) (v : FlagRegs) : (s.setFlags v).args = s.args := rfl
@[simp] theorem State.setFlags_res (s : State) (v : FlagRegs) : (s.setFlags v).res = s.res := rfl
@[simp] theorem State.setFlags_cache (s : State) (v : FlagRegs) : (s.setFlags v).cache = s.cache := rfl
@[simp] theorem State.setFlags_hbuf (s : State) (v : FlagRegs) : (s.setFlags v).hbuf = s.hbuf := rfl
@[simp] theorem State.setFlags_hal (s : State) (v : FlagRegs) : (s.setFlags v).hal = s.hal := rfl
@[simp] theorem State.setFlags_fg (s : State) (v : FlagRegs) : (s.setFlags v).fg = s.fg := rfl
@[simp] theorem State.setFlags_st (s : State) (v : FlagRegs) : (s.setFlags v).st = s.st := rfl
@[simp] theorem State.setFlags_bus (s : State) (v : FlagRegs) : (s.setFlags v).bus = s.bus := rfl
@[simp] theorem State.setFlags_inputs (s : State) (v : FlagRegs) : (s.setFlags v).inputs = s.inputs := rfl
@[simp] theorem State.setFlags_plan (s : State) (v : FlagRegs) : (s.setFlags v).plan = s.plan := rfl
@[simp] theorem State.setFlags_trace (s : State) (v : FlagRegs) : (s.setFlags v).trace = s.trace := rfl
@[simp] theorem State.setFlags_free (s : State) (v : FlagRegs) : (s.setFlags v).free = s.free := rfl
@[simp] theorem State.setFlags_pipe (s : State) (v : FlagRegs) (q : Nat) : (s.setFlags v).pipe q = s.pipe q := rfl
@[simp] theorem State.setFlags_job (s : State) (v : FlagRegs) (q : Nat) : (s.setFlags v).job q = s.job q := rfl
@[simp] theorem State.setFlags_iface (s : State) (v : FlagRegs) (q : Nat) : (s.setFlags v).iface q = s.iface q := rfl
@[simp] theorem State.setFlags_halPipe (s : State) (v : FlagRegs) (q : Nat) : (s.setFlags v).halPipe q = s.halPipe q := rfl
@[simp] theorem State.setFlags_cacheByte (s : State) (v : FlagRegs) (k : Nat) : (s.setFlags v).cacheByte k = s.cacheByte k := rfl
@[simp] theorem State.setFlags_hostByte (s : State) (v : FlagRegs) (c k : Nat) : (s.setFlags v).hostByte c k = s.hostByte c k := rfl
@[simp] theorem State.setFlags_anyArmed (s : State) (v : FlagRegs) : (s.setFlags v).anyArmed = s.anyArmed := rfl

/-! ### `State.setEn` -/

@[simp] theorem State.setEn_cfg (s : State) (v : EnableRegs) : (s.setEn v).cfg = s.cfg := rfl
@[simp] theorem State.setEn_tables (s : State) (v : EnableRegs) : (s.setEn v).tables = s.tables := rfl
@[simp] theorem State.setEn_ds (s : State) (v : EnableRegs) : (s.setEn v).ds = s.ds := rfl
@[simp] theorem State.setEn_ct (s : State) (v : EnableRegs) : (s.setEn v).ct = s.ct := rfl
@[simp] theorem State.setEn_sp (s : State) (v : EnableRegs) : (s.setEn v).sp = s.sp := rfl
@[simp] theorem State.setEn_flags (s : State) (v : EnableRegs) : (s.setEn v).flags = s.flags := rfl
@[simp] theorem State.setEn_en (s : State) (v : EnableRegs) : (s.setEn v).en = v := rfl
@[simp] theorem State.setEn_cnt (s : State) (v : EnableRegs) : (s.setEn v).cnt = s.cnt := rfl
@[simp] theorem State.setEn_ident (s : State) (v : EnableRegs) : (s.setEn v).ident = s.ident := rfl
@[simp] theorem State.setEn_sr (s : State) (v : EnableRegs) : (s.setEn v).sr = s.sr := rfl
@[simp] theorem State.setEn_cacheLen (s : State) (v : EnableRegs) : (s.setEn v).cacheLen = s.cacheLen := rfl
@[simp] theorem State.setEn_nsi (s : State) (v : EnableRegs) : (s.setEn v).nsi = s.nsi := rfl
@[simp] theorem State.setEn_si (s : State) (v : EnableRegs) : (s.setEn v).si = s.si := rfl
@[simp] theorem State.setEn_parse (s : State) (v : EnableRegs) : (s.setEn v).parse = s.parse := rfl
@[simp] theorem State.setEn_pipes (s : State) (v : EnableRegs) : (s.setEn v).pipes = s.pipes := rfl
@[simp] theorem State.setEn_jobs (s : State) (v : EnableRegs) : (s.setEn v).jobs = s.jobs := rfl
@[simp] theorem State.setEn_args (s : State) (v : EnableRegs) : (s.setEn v).args = s.args := rfl
@[simp] theorem State.setEn_res (s : State) (v : EnableRegs) : (s.setEn v).res = s.res := rfl
@[simp] theorem State.setEn_cache (s : State) (v : EnableRegs) : (s.setEn v).cache = s.cache := rfl
@[simp] theorem State.setEn_hbuf (s : State) (v : EnableRegs) : (s.setEn v).hbuf = s.hbuf := rfl
@[simp] theorem State.setEn_hal (s : State) (v : EnableRegs) : (s.setEn v).hal = s.hal := rfl
@[simp] theorem State.setEn_fg (s : State) (v : EnableRegs) : (s.setEn v).fg = s.fg := rfl
@[simp] theorem State.setEn_st (s : State) (v : EnableRegs) : (s.setEn v).st = s.st := rfl
@[simp] theorem State.setEn_bus (s : State) (v : EnableRegs) : (s.setEn v).bus = s.bus := rfl
@[simp] theorem State.setEn_inputs (s : State) (v : EnableRegs) : (s.setEn v).inputs = s.inputs := rfl
@[simp] theorem State.setEn_plan (s : State) (v : EnableRegs) : (s.setEn v).plan = s.plan := rfl
@[simp] theorem State.setEn_trace (s : State) (v : EnableRegs) : (s.setEn v).trace = s.trace := rfl
@[simp] theorem State.setEn_free (s : State) (v : EnableRegs) : (s.setEn v).free = s.free := rfl
@[simp] theorem State.setEn_pipe (s : State) (v : EnableRegs) (q : Nat) : (s.setEn v).pipe q = s.pipe q := rfl
@[simp] theorem State.setEn_job (s : State) (v : EnableRegs) (q : Nat) : (s.setEn v).job q = s.job q := rfl
@[simp] theorem State.setEn_iface (s : State) (v : EnableRegs) (q : Nat) : (s.setEn v).iface q = s.iface q := rfl
@[simp] theorem State.setEn_halPipe (s : State) (v : EnableRegs) (q : Nat) : (s.setEn v).halPipe q = s.halPipe q := rfl
@[simp] theorem State.setEn_cacheByte (s : State) (v : EnableRegs) (k : Nat) : (s.setEn v).cacheByte k = s.cacheByte k := rfl
@[simp] theorem State.setEn_hostByte (s : State) (v : EnableRegs) (c k : Nat) : (s.setEn v).hostByte c k = s.hostByte c k := rfl
@[simp] theorem State.setEn_anyArmed (s : State) (v : EnableRegs) : (s.setEn v).anyArmed = s.anyArmed := rfl

/-! ### `State.setCnt` -/

@[simp] theorem State.setCnt_cfg (s : State) (v : CountRegs) : (s.setCnt v).cfg = s.cfg := rfl
@[simp] theorem State.setCnt_tables (s : State) (v : CountRegs) : (s.setCnt v).tables = s.tables := rfl
@[simp] theorem State.setCnt_ds (s : State) (v : CountRegs) : (s.setCnt v).ds = s.ds := rfl
@[simp] theorem State.setCnt_ct (s : State) (v : CountRegs) : (s.setCnt v).ct = s.ct := rfl
@[simp] theorem State.setCnt_sp (s : State) (v : CountRegs) : (s.setCnt v).sp = s.sp := rfl
@[simp] theorem State.setCnt_flags (s : State) (v : CountRegs) : (s.setCnt v).flags = s.flags := rfl
@[simp] theorem State.setCnt_en (s : State) (v : CountRegs) : (s.setCnt v).en = s.en := rfl
@[simp] theorem State.setCnt_cnt (s : State) (v : CountRegs) : (s.setCnt v).cnt = v := rfl
@[simp] theorem State.setCnt_ident (s : State) (v : CountRegs) : (s.setCnt v).ident = s.ident := rfl
@[simp] theorem State.setCnt_sr (s : State) (v : CountRegs) : (s.setCnt v).sr = s.sr := rfl
@[simp] theorem State.setCnt_cacheLen (s : State) (v : CountRegs) : (s.setCnt v).cacheLen = s.cacheLen := rfl
@[simp] theorem State.setCnt_nsi (s : State) (v : CountRegs) : (s.setCnt v).nsi = s.nsi := rfl
@[simp] theorem State.setCnt_si (s : State) (v : CountRegs) : (s.setCnt v).si = s.si := rfl
@[simp] theorem State.setCnt_parse (s : State) (v : CountRegs) : (s.setCnt v).parse = s.parse := rfl
@[simp] theorem State.setCnt_pipes (s : State) (v : CountRegs) : (s.setCnt v).pipes = s.pipes := rfl
@[simp] theorem State.setCnt_jobs (s : State) (v : CountRegs) : (s.setCnt v).jobs = s.jobs := rfl
@[simp] theorem State.setCnt_args (s : State) (v : CountRegs) : (s.setCnt v).args = s.args := rfl
@[simp] theorem State.setCnt_res (s : State) (v : CountRegs) : (s.setCnt v).res = s.res := rfl
@[simp] theorem State.setCnt_cache (s : State) (v : CountRegs) : (s.setCnt v).cache = s.cache := rfl
@[simp] theorem State.setCnt_hbuf (s : State) (v : CountRegs) : (s.setCnt v).hbuf = s.hbuf := rfl
@[simp] theorem State.setCnt_hal (s : State) (v : CountRegs) : (s.setCnt v).hal = s.hal := rfl
@[simp] theorem State.setCnt_fg (s : State) (v : CountRegs) : (s.setCnt v).fg = s.fg := rfl
@[simp] theorem State.setCnt_st (s : State) (v : CountRegs) : (s.setCnt v).st = s.st := rfl
@[simp] theorem State.setCnt_bus (s : State) (v : CountRegs) : (s.setCnt v).bus = s.bus := rfl
@[simp] theorem State.setCnt_inputs (s : State) (v : CountRegs) : (s.setCnt v).inputs = s.inputs := rfl
@[simp] theorem State.setCnt_plan (s : State) (v : CountRegs) : (s.setCnt v).plan = s.plan := rfl
@[simp] theorem State.setCnt_trace (s : State) (v : CountRegs) : (s.setCnt v).trace = s.trace := rfl
@[simp] theorem State.setCnt_free (s : State) (v : CountRegs) : (s.setCnt v).free = s.free := rfl
@[simp] theorem State.setCnt_pipe (s : State) (v : CountRegs) (q : Nat) : (s.setCnt v).pipe q = s.pipe q := rfl
@[simp] theorem State.setCnt_job (s : State) (v : CountRegs) (q : Nat) : (s.setCnt v).job q = s.job q := rfl
@[simp] theorem State.setCnt_iface (s : State) (v : CountRegs) (q : Nat) : (s.setCnt v).iface q = s.iface q := rfl
@[simp] theorem State.setCnt_halPipe (s : State) (v : CountRegs) (q : Nat) : (s.setCnt v).halPipe q = s.halPipe q := rfl
@[simp] theorem State.setCnt_cacheByte (s : State) (v : CountRegs) (k : Nat) : (s.setCnt v).cacheByte k = s.cacheByte k := rfl
@[simp] theorem State.setCnt_hostByte (s : State) (v : CountRegs) (c k : Nat) : (s.setCnt v).hostByte c k = s.hostByte c k := rfl
@[simp] theorem State.setCnt_anyArmed (s : State) (v : CountRegs) : (s.setCnt v).anyArmed = s.anyArmed := rfl

/-! ### `State.setIdent` -/

@[simp] theorem State.setIdent_cfg (s : State) (v : IdentRegs) : (s.setIdent v).cfg = s.cfg := rfl
@[simp] theorem State.setIdent_tables (s : State) (v : IdentRegs) : (s.setIdent v).tables = s.tables := rfl
@[simp] theorem State.setIdent_ds (s : State) (v : IdentRegs) : (s.setIdent v).ds = s.ds := rfl
@[simp] theorem State.setIdent_ct (s : State) (v : IdentRegs) : (s.setIdent v).ct = s.ct := rfl
@[simp] theorem State.setIdent_sp (s : State) (v : IdentRegs) : (s.setIdent v).sp = s.sp := rfl
@[simp] theorem State.setIdent_flags (s : State) (v : IdentRegs) : (s.setIdent v).flags = s.flags := rfl
@[simp] theorem State.setIdent_en (s : State) (v : IdentRegs) : (s.setIdent v).en = s.en := rfl
@[simp] theorem State.setIdent_cnt (s : State) (v : IdentRegs) : (s.setIdent v).cnt = s.cnt := rfl
@[simp] theorem State.setIdent_ident (s : State) (v : IdentRegs) : (s.setIdent v).ident = v := rfl
@[simp] theorem State.setIdent_sr (s : State) (v : IdentRegs) : (s.setIdent v).sr = s.sr := rfl
@[simp] theorem State.setIdent_cacheLen (s : State) (v : IdentRegs) : (s.setIdent v).cacheLen = s.cacheLen := rfl
@[simp] theorem State.setIdent_nsi (s : State) (v : IdentRegs) : (s.setIdent v).nsi = s.nsi := rfl
@[simp] theorem State.setIdent_si (s : State) (v : IdentRegs) : (s.setIdent v).si = s.si := rfl
@[simp] theorem State.setIdent_parse (s : State) (v : IdentRegs) : (s.setIdent v).parse = s.parse := rfl
@[simp] theorem State.setIdent_pipes (s : State) (v : IdentRegs) : (s.setIdent v).pipes = s.pipes := rfl
@[simp] theorem State.setIdent_jobs (s : State) (v : IdentRegs) : (s.setIdent v).jobs = s.jobs := rfl
@[simp] theorem State.setIdent_args (s : State) (v : IdentRegs) : (s.setIdent v).args = s.args := rfl
@[simp] theorem State.setIdent_res (s : State) (v : IdentRegs) : (s.setIdent v).res = s.res := rfl
@[simp] theorem State.setIdent_cache (s : State) (v : IdentRegs) : (s.setIdent v).cache = s.cache := rfl
@[simp] theorem State.setIdent_hbuf (s : State) (v : IdentRegs) : (s.setIdent v).hbuf = s.hbuf := rfl
@[simp] theorem State.setIdent_hal (s : State) (v : IdentRegs) : (s.setIdent v).hal = s.hal := rfl
@[simp] theorem State.setIdent_fg (s : State) (v : IdentRegs) : (s.setIdent v).fg = s.fg := rfl
@[simp] theorem State.setIdent_st (s : State) (v : IdentRegs) : (s.setIdent v).st = s.st := rfl
@[simp] theorem State.setIdent_bus (s : State) (v : IdentRegs) : (s.setIdent v).bus = s.bus := rfl
@[simp] theorem State.setIdent_inputs (s : State) (v : IdentRegs) : (s.setIdent v).inputs = s.inputs := rfl
@[simp] theorem State.setIdent_plan (s : State) (v : IdentRegs) : (s.setIdent v).plan = s.plan := rfl
@[simp] theorem State.setIdent_trace (s : State) (v : IdentRegs) : (s.setIdent v).trace = s.trace := rfl
@[simp] theorem State.setIdent_free (s : State) (v : IdentRegs) : (s.setIdent v).free = s.free := rfl
@[simp] theorem State.setIdent_pipe (s : State) (v : IdentRegs) (q : Nat) : (s.setIdent v).pipe q = s.pipe q := rfl
@[simp] theorem State.setIdent_job (s : State) (v : IdentRegs) (q : Nat) : (s.setIdent v).job q = s.job q := rfl
@[simp] theorem State.setIdent_iface (s : State) (v : IdentRegs) (q : Nat) : (s.setIdent v).iface q = s.iface q := rfl
@[simp] theorem State.setIdent_halPipe (s : State) (v : IdentRegs) (q : Nat) : (s.setIdent v).halPipe q = s.halPipe q := rfl
@[simp] theorem State.setIdent_cacheByte (s : State) (v : IdentRegs) (k : Nat) : (s.setIdent v).cacheByte k = s.cacheByte k := rfl
@[simp] theorem State.setIdent_hostByte (s : State) (v : IdentRegs) (c k : Nat) : (s.setIdent v).hostByte c k = s.hostByte c k := rfl
@[simp] theorem State.setIdent_anyArmed (s : State) (v : IdentRegs) : (s.setIdent v).anyArmed = s.anyArmed := rfl

/-! ### `State.setSr` -/

@[simp] theorem State.setSr_cfg (s : State) (v : Setup) : (s.setSr v).cfg = s.cfg := rfl
@[simp] theorem State.setSr_tables (s : State) (v : Setup) : (s.setSr v).tables = s.tables := rfl
@[simp] theorem State.setSr_ds (s : State) (v : Setup) : (s.setSr v).ds = s.ds := rfl
@[simp] theorem State.setSr_ct (s : State) (v : Setup) : (s.setSr v).ct = s.ct := rfl
@[simp] theorem State.setSr_sp (s : State) (v : Setup) : (s.setSr v).sp = s.sp := rfl
@[simp] theorem State.setSr_flags (s : State) (v : Setup) : (s.setSr v).flags = s.flags := rfl
@[simp] theorem State.setSr_en (s : State) (v : Setup) : (s.setSr v).en = s.en := rfl
@[simp] theorem State.setSr_cnt (s : State) (v : Setup) : (s.setSr v).cnt = s.cnt := rfl
@[simp] theorem State.setSr_ident (s : State) (v : Setup) : (s.setSr v).ident = s.ident := rfl
@[simp] theorem State.setSr_sr (s : State) (v : Setup) : (s.setSr v).sr = v := rfl
@[simp] theorem State.setSr_cacheLen (s : State) (v : Setup) : (s.setSr v).cacheLen = s.cacheLen := rfl
@[simp] theorem State.setSr_nsi (s : State) (v : Setup) : (s.setSr v).nsi = s.nsi := rfl
@[simp] theorem State.setSr_si (s : State) (v : Setup) : (s.setSr v).si = s.si := rfl
@[simp] theorem State.setSr_parse (s : State) (v : Setup) : (s.setSr v).parse = s.parse := rfl
@[simp] theorem State.setSr_pipes (s : State) (v : Setup) : (s.setSr v).pipes = s.pipes := rfl
@[simp] theorem State.setSr_jobs (s : State) (v : Setup) : (s.setSr v).jobs = s.jobs := rfl
@[simp] theorem State.setSr_args (s : State) (v : Setup) : (s.setSr v).args = s.args := rfl
@[simp] theorem State.setSr_res (s : State) (v : Setup) : (s.setSr v).res = s.res := rfl
@[simp] theorem State.setSr_cache (s : State) (v : Setup) : (s.setSr v).cache = s.cache := rfl
@[simp] theorem State.setSr_hbuf (s : State) (v : Setup) : (s.setSr v).hbuf = s.hbuf := rfl
@[simp] theorem State.setSr_hal (s : State) (v : Setup) : (s.setSr v).hal = s.hal := rfl
@[simp] theorem State.setSr_fg (s : State) (v : Setup) : (s.setSr v).fg = s.fg := rfl
@[simp] theorem State.setSr_st (s : State) (v : Setup) : (s.setSr v).st = s.st := rfl
@[simp] theorem State.setSr_bus (s : State) (v : Setup) : (s.setSr v).bus = s.bus := rfl
@[simp] theorem State.setSr_inputs (s : State) (v : Setup) : (s.setSr v).inputs = s.inputs := rfl
@[simp] theorem State.setSr_plan (s : State) (v : Setup) : (s.setSr v).plan = s.plan := rfl
@[simp] theorem State.setSr_trace (s : State) (v : Setup) : (s.setSr v).trace = s.trace := rfl
@[simp] theorem State.setSr_free (s : State) (v : Setup) : (s.setSr v).free = s.free := rfl
@[simp] theorem State.setSr_pipe (s : State) (v : Setup) (q : Nat) : (s.setSr v).pipe q = s.pipe q := rfl
@[simp] theorem State.setSr_job (s : State) (v : Setup) (q : Nat) : (s.setSr v).job q = s.job q := rfl
@[simp] theorem State.setSr_iface (s : State) (v : Setup) (q : Nat) : (s.setSr v).iface q = s.iface q := rfl
@[simp] theorem State.setSr_halPipe (s : State) (v : Setup) (q : Nat) : (s.setSr v).halPipe q = s.halPipe q := rfl
@[simp] theorem State.setSr_cacheByte (s : State) (v : Setup) (k : Nat) : (s.setSr v).cacheByte k = s.cacheByte k := rfl
@[simp] theorem State.setSr_hostByte (s : State) (v : Setup) (c k : Nat) : (s.setSr v).hostByte c k = s.hostByte c k := rfl
@[simp] theorem State.setSr_anyArmed (s : State) (v : Setup) : (s.setSr v).anyArmed = s.anyArmed := rfl

/-! ### `State.setCacheLen` -/

@[simp] theorem State.setCacheLen_cfg (s : State) (v : Nat) : (s.setCacheLen v).cfg = s.cfg := rfl
@[simp] theorem State.setCacheLen_tables (s : State) (v : Nat) : (s.setCacheLen v).tables = s.tables := rfl
@[simp] theorem State.setCacheLen_ds (s : State) (v : Nat) : (s.setCacheLen v).ds = s.ds := rfl
@[simp] theorem State.setCacheLen_ct (s : State) (v : Nat) : (s.setCacheLen v).ct = s.ct := rfl
@[simp] theorem State.setCacheLen_sp (s : State) (v : Nat) : (s.setCacheLen v).sp = s.sp := rfl
@[simp] theorem State.setCacheLen_flags (s : State) (v : Nat) : (s.setCacheLen v).flags = s.flags := rfl
@[simp] theorem State.setCacheLen_en (s : State) (v : Nat) : (s.setCacheLen v).en = s.en := rfl
@[simp] theorem State.setCacheLen_cnt (s : State) (v : Nat) : (s.setCacheLen v).cnt = s.cnt := rfl
@[simp] theorem State.setCacheLen_ident (s : State) (v : Nat) : (s.setCacheLen v).ident = s.ident := rfl
@[simp] theorem State.setCacheLen_sr (s : State) (v : Nat) : (s.setCacheLen v).sr = s.sr := rfl
@[simp] theorem State.setCacheLen_cacheLen (s : State) (v : Nat) : (s.setCacheLen v).cacheLen = v := rfl
@[simp] theorem State.setCacheLen_nsi (s : State) (v : Nat) : (s.setCacheLen v).nsi = s.nsi := rfl
@[simp] theorem State.setCacheLen_si (s : State) (v : Nat) : (s.setCacheLen v).si = s.si := rfl
@[simp] theorem State.setCacheLen_parse (s : State) (v : Nat) : (s.setCacheLen v).parse = s.parse := rfl
@[simp] theorem State.setCacheLen_pipes (s : State) (v : Nat) : (s.setCacheLen v).pipes = s.pipes := rfl
@[simp] theorem State.setCacheLen_jobs (s : State) (v : Nat) : (s.setCacheLen v).jobs = s.jobs := rfl
@[simp] theorem State.setCacheLen_args (s : State) (v : Nat) : (s.setCacheLen v).args = s.args := rfl
@[simp] theorem State.setCacheLen_res (s : State) (v : Nat) : (s.setCacheLen v).res = s.res := rfl
@[simp] theorem State.setCacheLen_cache (s : State) (v : Nat) : (s.setCacheLen v).cache = s.cache := rfl
@[simp] theorem State.setCacheLen_hbuf (s : State) (v : Nat) : (s.setCacheLen v).hbuf = s.hbuf := rfl
@[simp] theorem State.setCacheLen_hal (s : State) (v : Nat) : (s.setCacheLen v).hal = s.hal := rfl
@[simp] theorem State.setCacheLen_fg (s : State) (v : Nat) : (s.setCacheLen v).fg = s.fg := rfl
@[simp] theorem State.setCacheLen_st (s : State) (v : Nat) : (s.setCacheLen v).st = s.st := rfl
@[simp] theorem State.setCacheLen_bus (s : State) (v : Nat) : (s.setCacheLen v).bus = s.bus := rfl
@[simp] theorem State.setCacheLen_inputs (s : State) (v : Nat) : (s.setCacheLen v).inputs = s.inputs := rfl
@[simp] theorem State.setCacheLen_plan (s : State) (v : Nat) : (s.setCacheLen v).plan = s.plan := rfl
@[simp] theorem State.setCacheLen_trace (s : State) (v : Nat) : (s.setCacheLen v).trace = s.trace := rfl
@[simp] theorem State.setCacheLen_free (s : State) (v : Nat) : (s.setCacheLen v).free = s.free := rfl
@[simp] theorem State.setCacheLen_pipe (s : State) (v : Nat) (q : Nat) : (s.setCacheLen v).pipe q = s.pipe q := rfl
@[simp] theorem State.setCacheLen_job (s : State) (v : Nat) (q : Nat) : (s.setCacheLen v).job q = s.job q := rfl
@[simp] theorem State.setCacheLen_iface (s : State) (v : Nat) (q : Nat) : (s.setCacheLen v).iface q = s.iface q := rfl
@[simp] theorem State.setCacheLen_halPipe (s : State) (v : Nat) (q : Nat) : (s.setCacheLen v).halPipe q = s.halPipe q := rfl
@[simp] theorem State.setCacheLen_cacheByte (s : State) (v : Nat) (k : Nat) : (s.setCacheLen v).cacheByte k = s.cacheByte k := rfl
@[simp] theorem State.setCacheLen_hostByte (s : State) (v : Nat) (c k : Nat) : (s.setCacheLen v).hostByte c k = s.hostByte c k := rfl
@[simp] theorem State.setCacheLen_anyArmed (s : State) (v : Nat) : (s.setCacheLen v).anyArmed = s.anyArmed := rfl

/-! ### `State.setNsi` -/

@[simp] theorem State.setNsi_cfg (s : State) (v : Nat) : (s.setNsi v).cfg = s.cfg := rfl
@[simp] theorem State.setNsi_tables (s : State) (v : Nat) : (s.setNsi v).tables = s.tables := rfl
@[simp] theorem State.setNsi_ds (s : State) (v : Nat) : (s.setNsi v).ds = s.ds := rfl
@[simp] theorem State.setNsi_ct (s : State) (v : Nat) : (s.setNsi v).ct = s.ct := rfl
@[simp] theorem State.setNsi_sp (s : State) (v : Nat) : (s.setNsi v).sp = s.sp := rfl
@[simp] theorem State.setNsi_flags (s : State) (v : Nat) : (s.setNsi v).flags = s.flags := rfl
@[simp] theorem State.setNsi_en (s : State) (v : Nat) : (s.setNsi v).en = s.en := rfl
@[simp] theorem State.setNsi_cnt (s : State) (v : Nat) : (s.setNsi v).cnt = s.cnt := rfl
@[simp] theorem State.setNsi_ident (s : State) (v : Nat) : (s.setNsi v).ident = s.ident := rfl
@[simp] theorem State.setNsi_sr (s : State) (v : Nat) : (s.setNsi v).sr = s.sr := rfl
@[simp] theorem State.setNsi_cacheLen (s : State) (v : Nat) : (s.setNsi v).cacheLen = s.cacheLen := rfl
@[simp] theorem State.setNsi_nsi (s : State) (v : Nat) : (s.setNsi v).nsi = v := rfl
@[simp] theorem State.setNsi_si (s : State) (v : Nat) : (s.setNsi v).si = s.si := rfl
@[simp] theorem State.setNsi_parse (s : State) (v : Nat) : (s.setNsi v).parse = s.parse := rfl
@[simp] theorem State.setNsi_pipes (s : State) (v : Nat) : (s.setNsi v).pipes = s.pipes := rfl
@[simp] theorem State.setNsi_jobs (s : State) (v : Nat) : (s.setNsi v).jobs = s.jobs := rfl
@[simp] theorem State.setNsi_args (s : State) (v : Nat) : (s.setNsi v).args = s.args := rfl
@[simp] theorem State.setNsi_res (s : State) (v : Nat) : (s.setNsi v).res = s.res := rfl
@[simp] theorem State.setNsi_cache (s : State) (v : Nat) : (s.setNsi v).cache = s.cache := rfl
@[simp] theorem State.setNsi_hbuf (s : State) (v : Nat) : (s.setNsi v).hbuf = s.hbuf := rfl
@[simp] theorem State.setNsi_hal (s : State) (v : Nat) : (s.setNsi v).hal = s.hal := rfl
@[simp] theorem State.setNsi_fg (s : State) (v : Nat) : (s.setNsi v).fg = s.fg := rfl
@[simp] theorem State.setNsi_st (s : State) (v : Nat) : (s.setNsi v).st = s.st := rfl
@[simp] theorem State.setNsi_bus (s : State) (v : Nat) : (s.setNsi v).bus = s.bus := rfl
@[simp] theorem State.setNsi_inputs (s : State) (v : Nat) : (s.setNsi v).inputs = s.inputs := rfl
@[simp] theorem State.setNsi_plan (s : State) (v : Nat) : (s.setNsi v).plan = s.plan := rfl
@[simp] theorem State.setNsi_trace (s : State) (v : Nat) : (s.setNsi v).trace = s.trace := rfl
@[simp] theorem State.setNsi_free (s : State) (v : Nat) : (s.setNsi v).free = s.free := rfl
@[simp] theorem State.setNsi_pipe (s : State) (v : Nat) (q : Nat) : (s.setNsi v).pipe q = s.pipe q := rfl
@[simp] theorem State.setNsi_job (s : State) (v : Nat) (q : Nat) : (s.setNsi v).job q = s.job q := rfl
@[simp] theorem State.setNsi_iface (s : State) (v : Nat) (q : Nat) : (s.setNsi v).iface q = s.iface q := rfl
@[simp] theorem State.setNsi_halPipe (s : State) (v : Nat) (q : Nat) : (s.setNsi v).halPipe q = s.halPipe q := rfl
@[simp] theorem State.setNsi_cacheByte (s : State) (v : Nat) (k : Nat) : (s.setNsi v).cacheByte k = s.cacheByte k := rfl
@[simp] theorem State.setNsi_hostByte (s : State) (v : Nat) (c k : Nat) : (s.setNsi v).hostByte c k = s.hostByte c k := rfl
@[simp] theorem State.setNsi_anyArmed (s : State) (v : Nat) : (s.setNsi v).anyArmed = s.anyArmed := rfl

/-! ### `State.setSi` -/

@[simp] theorem State.setSi_cfg (s : State) (v : List Iface) : (s.setSi v).cfg = s.cfg := rfl
@[simp] theorem State.setSi_tables (s : State) (v : List Iface) : (s.setSi v).tables = s.tables := rfl
@[simp] theorem State.setSi_ds (s : State) (v : List Iface) : (s.setSi v).ds = s.ds := rfl
@[simp] theorem State.setSi_ct (s : State) (v : List Iface) : (s.setSi v).ct = s.ct := rfl
@[simp] theorem State.setSi_sp (s : State) (v : List Iface) : (s.setSi v).sp = s.sp := rfl
@[simp] theorem State.setSi_flags (s : State) (v : List Iface) : (s.setSi v).flags = s.flags := rfl
@[simp] theorem State.setSi_en (s : State) (v : List Iface) : (s.setSi v).en = s.en := rfl
@[simp] theorem State.setSi_cnt (s : State) (v : List Iface) : (s.setSi v).cnt = s.cnt := rfl
@[simp] theorem State.setSi_ident (s : State) (v : List Iface) : (s.setSi v).ident = s.ident := rfl
@[simp] theorem State.setSi_sr (s : State) (v : List Iface) : (s.setSi v).sr = s.sr := rfl
@[simp] theorem State.setSi_cacheLen (s : State) (v : List Iface) : (s.setSi v).cacheLen = s.cacheLen := rfl
@[simp] theorem State.setSi_nsi (s : State) (v : List Iface) : (s.setSi v).nsi = s.nsi := rfl
@[simp] theorem State.setSi_si (s : State) (v : List Iface) : (s.setSi v).si = v := rfl
@[simp] theorem State.setSi_parse (s : State) (v : List Iface) : (s.setSi v).parse = s.parse := rfl
@[simp] theorem State.setSi_pipes (s : State) (v : List Iface) : (s.setSi v).pipes = s.pipes := rfl
@[simp] theorem State.setSi_jobs (s : State) (v : List Iface) : (s.setSi v).jobs = s.jobs := rfl
@[simp] theorem State.setSi_args (s : State) (v : List Iface) : (s.setSi v).args = s.args := rfl
@[simp] theorem State.setSi_res (s : State) (v : List Iface) : (s.setSi v).res = s.res := rfl
@[simp] theorem State.setSi_cache (s : State) (v : List Iface) : (s.setSi v).cache = s.cache := rfl
@[simp] theorem State.setSi_hbuf (s : State) (v : List Iface) : (s.setSi v).hbuf = s.hbuf := rfl
@[simp] theorem State.setSi_hal (s : State) (v : List Iface) : (s.setSi v).hal = s.hal := rfl
@[simp] theorem State.setSi_fg (s : State) (v : List Iface) : (s.setSi v).fg = s.fg := rfl
@[simp] theorem State.setSi_st (s : State) (v : List Iface) : (s.setSi v).st = s.st := rfl
@[simp] theorem State.setSi_bus (s : State) (v : List Iface) : (s.setSi v).bus = s.bus := rfl
@[simp] theorem State.setSi_inputs (s : State) (v : List Iface) : (s.setSi v).inputs = s.inputs := rfl
@[simp] theorem State.setSi_plan (s : State) (v : List Iface) : (s.setSi v).plan = s.plan := rfl
@[simp] theorem State.setSi_trace (s : State) (v : List Iface) : (s.setSi v).trace = s.trace := rfl
@[simp] theorem State.setSi_free (s : State) (v : List Iface) : (s.setSi v).free = s.free := rfl
@[simp] theorem State.setSi_pipe (s : State) (v : List Iface) (q : Nat) : (s.setSi v).pipe q = s.pipe q := rfl
@[simp] theorem State.setSi_job (s : State) (v : List Iface) (q : Nat) : (s.setSi v).job q = s.job q := rfl
@[simp] theorem State.setSi_halPipe (s : State) (v : List Iface) (q : Nat) : (s.setSi v).halPipe q = s.halPipe q := rfl
@[simp] theorem State.setSi_cacheByte (s : State) (v : List Iface) (k : Nat) : (s.setSi v).cacheByte k = s.cacheByte k := rfl
@[simp] theorem State.setSi_hostByte (s : State) (v : List Iface) (c k : Nat) : (s.setSi v).hostByte c k = s.hostByte c k := rfl
@[simp] theorem State.setSi_anyArmed (s : State) (v : List Iface) : (s.setSi v).anyArmed = s.anyArmed := rfl

/-! ### `State.setParse` -/

@[simp] theorem State.setParse_cfg (s : State) (v : ParseRegs) : (s.setParse v).cfg = s.cfg := rfl
@[simp] theorem State.setParse_tables (s : State) (v : ParseRegs) : (s.setParse v).tables = s.tables := rfl
@[simp] theorem State.setParse_ds (s : State) (v : ParseRegs) : (s.setParse v).ds = s.ds := rfl
@[simp] theorem State.setParse_ct (s : State) (v : ParseRegs) : (s.setParse v).ct = s.ct := rfl
@[simp] theorem State.setParse_sp (s : State) (v : ParseRegs) : (s.setParse v).sp = s.sp := rfl
@[simp] theorem State.setParse_flags (s : State) (v : ParseRegs) : (s.setParse v).flags = s.flags := rfl
@[simp] theorem State.setParse_en (s : State) (v : ParseRegs) : (s.setParse v).en = s.en := rfl
@[simp] theorem State.setParse_cnt (s : State) (v : ParseRegs) : (s.setParse v).cnt = s.cnt := rfl
@[simp] theorem State.setParse_ident (s : State) (v : ParseRegs) : (s.setParse v).ident = s.ident := rfl
@[simp] theorem State.setParse_sr (s : State) (v : ParseRegs) : (s.setParse v).sr = s.sr := rfl
@[simp] theorem State.setParse_cacheLen (s : State) (v : ParseRegs) : (s.setParse v).cacheLen = s.cacheLen := rfl
@[simp] theorem State.setParse_nsi (s : State) (v : ParseRegs) : (s.setParse v).nsi = s.nsi := rfl
@[simp] theorem State.setParse_si (s : State) (v : ParseRegs) : (s.setParse v).si = s.si := rfl
@[simp] theorem State.setParse_parse (s : State) (v : ParseRegs) : (s.setParse v).parse = v := rfl
@[simp] theorem State.setParse_pipes (s : State) (v : ParseRegs) : (s.setParse v).pipes = s.pipes := rfl
@[simp] theorem State.setParse_jobs (s : State) (v : ParseRegs) : (s.setParse v).jobs = s.jobs := rfl
@[simp] theorem State.setParse_args (s : State) (v : ParseRegs) : (s.setParse v).args = s.args := rfl
@[simp] theorem State.setParse_res (s : State) (v : ParseRegs) : (s.setParse v).res = s.res := rfl
@[simp] theorem State.setParse_cache (s : State) (v : ParseRegs) : (s.setParse v).cache = s.cache := rfl
@[simp] theorem State.setParse_hbuf (s : State) (v : ParseRegs) : (s.setParse v).hbuf = s.hbuf := rfl
@[simp] theorem State.setParse_hal (s : State) (v : ParseRegs) : (s.setParse v).hal = s.hal := rfl
@[simp] theorem State.setParse_fg (s : State) (v : ParseRegs) : (s.setParse v).fg = s.fg := rfl
@[simp] theorem State.setParse_st (s : State) (v : ParseRegs) : (s.setParse v).st = s.st := rfl
@[simp] theorem State.setParse_bus (s : State) (v : ParseRegs) : (s.setParse v).bus = s.bus := rfl
@[simp] theorem State.setParse_inputs (s : State) (v : ParseRegs) : (s.setParse v).inputs = s.inputs := rfl
@[simp] theorem State.setParse_plan (s : State) (v : ParseRegs) : (s.setParse v).plan = s.plan := rfl
@[simp] theorem State.setParse_trace (s : State) (v : ParseRegs) : (s.setParse v).trace = s.trace := rfl
@[simp] theorem State.setParse_free (s : State) (v : ParseRegs) : (s.setParse v).free = s.free := rfl
@[simp] theorem State.setParse_pipe (s : State) (v : ParseRegs) (q : Nat) : (s.setParse v).pipe q = s.pipe q := rfl
@[simp] theorem State.setParse_job (s : State) (v : ParseRegs) (q : Nat) : (s.setParse v).job q = s.job q := rfl
@[simp] theorem State.setParse_iface (s : State) (v : ParseRegs) (q : Nat) : (s.setParse v).iface q = s.iface q := rfl
@[simp] theorem State.setParse_halPipe (s : State) (v : ParseRegs) (q : Nat) : (s.setParse v).halPipe q = s.halPipe q := rfl
@[simp] theorem State.setParse_cacheByte (s : State) (v : ParseRegs) (k : Nat) : (s.setParse v).cacheByte k = s.cacheByte k := rfl
@[simp] theorem State.setParse_hostByte (s : State) (v : ParseRegs) (c k : Nat) : (s.setParse v).hostByte c k = s.hostByte c k := rfl
@[simp] theorem State.setParse_anyArmed (s : State) (v : ParseRegs) : (s.setParse v).anyArmed = s.anyArmed := rfl

/-! ### `State.setPipes` -/

@[simp] theorem State.setPipes_cfg (s : State) (v : List Pipe) : (s.setPipes v).cfg = s.cfg := rfl
@[simp] theorem State.setPipes_tables (s : State) (v : List Pipe) : (s.setPipes v).tables = s.tables := rfl
@[simp] theorem State.setPipes_ds (s : State) (v : List Pipe) : (s.setPipes v).ds = s.ds := rfl
@[simp] theorem State.setPipes_ct (s : State) (v : List Pipe) : (s.setPipes v).ct = s.ct := rfl
@[simp] theorem State.setPipes_sp (s : State) (v : List Pipe) : (s.setPipes v).sp = s.sp := rfl
@[simp] theorem State.setPipes_flags (s : State) (v : List Pipe) : (s.setPipes v).flags = s.flags := rfl
@[simp] theorem State.setPipes_en (s : State) (v : List Pipe) : (s.setPipes v).en = s.en := rfl
@[simp] theorem State.setPipes_cnt (s : State) (v : List Pipe) : (s.setPipes v).cnt = s.cnt := rfl
@[simp] theorem State.setPipes_ident (s : State) (v : List Pipe) : (s.setPipes v).ident = s.ident := rfl
@[simp] theorem State.setPipes_sr (s : State) (v : List Pipe) : (s.setPipes v).sr = s.sr := rfl
@[simp] theorem State.setPipes_cacheLen (s : State) (v : List Pipe) : (s.setPipes v).cacheLen = s.cacheLen := rfl
@[simp] theorem State.setPipes_nsi (s : State) (v : List Pipe) : (s.setPipes v).nsi = s.nsi := rfl
@[simp] theorem State.setPipes_si (s : State) (v : List Pipe) : (s.setPipes v).si = s.si := rfl
@[simp] theorem State.setPipes_parse (s : State) (v : List Pipe) : (s.setPipes v).parse = s.parse := rfl
@[simp] theorem State.setPipes_pipes (s : State) (v : List Pipe) : (s.setPipes v).pipes = v := rfl
@[simp] theorem State.setPipes_jobs (s : State) (v : List Pipe) : (s.setPipes v).jobs = s.jobs := rfl
@[simp] theorem State.setPipes_args (s : State) (v : List Pipe) : (s.setPipes v).args = s.args := rfl
@[simp] theorem State.setPipes_res (s : State) (v : List Pipe) : (s.setPipes v).res = s.res := rfl
@[simp] theorem State.setPipes_cache (s : State) (v : List Pipe) : (s.setPipes v).cache = s.cache := rfl
@[simp] theorem State.setPipes_hbuf (s : State) (v : List Pipe) : (s.setPipes v).hbuf = s.hbuf := rfl
@[simp] theorem State.setPipes_hal (s : State) (v : List Pipe) : (s.setPipes v).hal = s.hal := rfl
@[simp] theorem State.setPipes_fg (s : State) (v : List Pipe) : (s.setPipes v).fg = s.fg := rfl
@[simp] theorem State.setPipes_st (s : State) (v : List Pipe) : (s.setPipes v).st = s.st := rfl
@[simp] theorem State.setPipes_bus (s : State) (v : List Pipe) : (s.setPipes v).bus = s.bus := rfl
@[simp] theorem State.setPipes_inputs (s : State) (v : List Pipe) : (s.setPipes v).inputs = s.inputs := rfl
@[simp] theorem State.setPipes_plan (s : State) (v : List Pipe) : (s.setPipes v).plan = s.plan := rfl
@[simp] theorem State.setPipes_trace (s : State) (v : List Pipe) : (s.setPipes v).trace = s.trace := rfl
@[simp] theorem State.setPipes_free (s : State) (v : List Pipe) : (s.setPipes v).free = s.free := rfl
@[simp] theorem State.setPipes_job (s : State) (v : List Pipe) (q : Nat) : (s.setPipes v).job q = s.job q := rfl
@[simp] theorem State.setPipes_iface (s : State) (v : List Pipe) (q : Nat) : (s.setPipes v).iface q = s.iface q := rfl
@[simp] theorem State.setPipes_halPipe (s : State) (v : List Pipe) (q : Nat) : (s.setPipes v).halPipe q = s.halPipe q := rfl
@[simp] theorem State.setPipes_cacheByte (s : State) (v : List Pipe) (k : Nat) : (s.setPipes v).cacheByte k = s.cacheByte k := rfl
@[simp] theorem State.setPipes_hostByte (s : State) (v : List Pipe) (c k : Nat) : (s.setPipes v).hostByte c k = s.hostByte c k := rfl
@[simp] theorem State.setPipes_anyArmed (s : State) (v : List Pipe) : (s.setPipes v).anyArmed = s.anyArmed := rfl

/-! ### `State.setJobs` -/

@[simp] theorem State.setJobs_cfg (s : State) (v : List Job) : (s.setJobs v).cfg = s.cfg := rfl
@[simp] theorem State.setJobs_tables (s : State) (v : List Job) : (s.setJobs v).tables = s.tables := rfl
@[simp] theorem State.setJobs_ds (s : State) (v : List Job) : (s.setJobs v).ds = s.ds := rfl
@[simp] theorem State.setJobs_ct (s : State) (v : List Job) : (s.setJobs v).ct = s.ct := rfl
@[simp] theorem State.setJobs_sp (s : State) (v : List Job) : (s.setJobs v).sp = s.sp := rfl
@[simp] theorem State.setJobs_flags (s : State) (v : List Job) : (s.setJobs v).flags = s.flags := rfl
@[simp] theorem State.setJobs_en (s : State) (v : List Job) : (s.setJobs v).en = s.en := rfl
@[simp] theorem State.setJobs_cnt (s : State) (v : List Job) : (s.setJobs v).cnt = s.cnt := rfl
@[simp] theorem State.setJobs_ident (s : State) (v : List Job) : (s.setJobs v).ident = s.ident := rfl
@[simp] theorem State.setJobs_sr (s : State) (v : List Job) : (s.setJobs v).sr = s.sr := rfl
@[simp] theorem State.setJobs_cacheLen (s : State) (v : List Job) : (s.setJobs v).cacheLen = s.cacheLen := rfl
@[simp] theorem State.setJobs_nsi (s : State) (v : List Job) : (s.setJobs v).nsi = s.nsi := rfl
@[simp] theorem State.setJobs_si (s : State) (v : List Job) : (s.setJobs v).si = s.si := rfl
@[simp] theorem State.setJobs_parse (s : State) (v : List Job) : (s.setJobs v).parse = s.parse := rfl
@[simp] theorem State.setJobs_pipes (s : State) (v : List Job) : (s.setJobs v).pipes = s.pipes := rfl
@[simp] theorem State.setJobs_jobs (s : State) (v : List Job) : (s.setJobs v).jobs = v := rfl
@[simp] theorem State.setJobs_args (s : State) (v : List Job) : (s.setJobs v).args = s.args := rfl
@[simp] theorem State.setJobs_res (s : State) (v : List Job) : (s.setJobs v).res = s.res := rfl
@[simp] theorem State.setJobs_cache (s : State) (v : List Job) : (s.setJobs v).cache = s.cache := rfl
@[simp] theorem State.setJobs_hbuf (s : State) (v : List Job) : (s.setJobs v).hbuf = s.hbuf := rfl
@[simp] theorem State.setJobs_hal (s : State) (v : List Job) : (s.setJobs v).hal = s.hal := rfl
@[simp] theorem State.setJobs_fg (s : State) (v : List Job) : (s.setJobs v).fg = s.fg := rfl
@[simp] theorem State.setJobs_st (s : State) (v : List Job) : (s.setJobs v).st = s.st := rfl
@[simp] theorem State.setJobs_bus (s : State) (v : List Job) : (s.setJobs v).bus = s.bus := rfl
@[simp] theorem State.setJobs_inputs (s : State) (v : List Job) : (s.setJobs v).inputs = s.inputs := rfl
@[simp] theorem State.setJobs_plan (s : State) (v : List Job) : (s.setJobs v).plan = s.plan := rfl
@[simp] theorem State.setJobs_trace (s : State) (v : List Job) : (s.setJobs v).trace = s.trace := rfl
@[simp] theorem State.setJobs_free (s : State) (v : List Job) : (s.setJobs v).free = s.free := rfl
@[simp] theorem State.setJobs_pipe (s : State) (v : List Job) (q : Nat) : (s.setJobs v).pipe q = s.pipe q := rfl
@[simp] theorem State.setJobs_iface (s : State) (v : List Job) (q : Nat) : (s.setJobs v).iface q = s.iface q := rfl
@[simp] theorem State.setJobs_halPipe (s : State) (v : List Job) (q : Nat) : (s.setJobs v).halPipe q = s.halPipe q := rfl
@[simp] theorem State.setJobs_cacheByte (s : State) (v : List Job) (k : Nat) : (s.setJobs v).cacheByte k = s.cacheByte k := rfl
@[simp] theorem State.setJobs_hostByte (s : State) (v : List Job) (c k : Nat) : (s.setJobs v).hostByte c k = s.hostByte c k := rfl

/-! ### `State.setArgs` -/

@[simp] theorem State.setArgs_cfg (s : State) (v : Args) : (s.setArgs v).cfg = s.cfg := rfl
@[simp] theorem State.setArgs_tables (s : State) (v : Args) : (s.setArgs v).tables = s.tables := rfl
@[simp] theorem State.setArgs_ds (s : State) (v : Args) : (s.setArgs v).ds = s.ds := rfl
@[simp] theorem State.setArgs_ct (s : State) (v : Args) : (s.setArgs v).ct = s.ct := rfl
@[simp] theorem State.setArgs_sp (s : State) (v : Args) : (s.setArgs v).sp = s.sp := rfl
@[simp] theorem State.setArgs_flags (s : State) (v : Args) : (s.setArgs v).flags = s.flags := rfl
@[simp] theorem State.setArgs_en (s : State) (v : Args) : (s.setArgs v).en = s.en := rfl
@[simp] theorem State.setArgs_cnt (s : State) (v : Args) : (s.setArgs v).cnt = s.cnt := rfl
@[simp] theorem State.setArgs_ident (s : State) (v : Args) : (s.setArgs v).ident = s.ident := rfl
@[simp] theorem State.setArgs_sr (s : State) (v : Args) : (s.setArgs v).sr = s.sr := rfl
@[simp] theorem State.setArgs_cacheLen (s : State) (v : Args) : (s.setArgs v).cacheLen = s.cacheLen := rfl
@[simp] theorem State.setArgs_nsi (s : State) (v : Args) : (s.setArgs v).nsi = s.nsi := rfl
@[simp] theorem State.setArgs_si (s : State) (v : Args) : (s.setArgs v).si = s.si := rfl
@[simp] theorem State.setArgs_parse (s : State) (v : Args) : (s.setArgs v).parse = s.parse := rfl
@[simp] theorem State.setArgs_pipes (s : State) (v : Args) : (s.setArgs v).pipes = s.pipes := rfl
@[simp] theorem State.setArgs_jobs (s : State) (v : Args) : (s.setArgs v).jobs = s.jobs := rfl
@[simp] theorem State.setArgs_args (s : State) (v : Args) : (s.setArgs v).args = v := rfl
@[simp] theorem State.setArgs_res (s : State) (v : Args) : (s.setArgs v).res = s.res := rfl
@[simp] theorem State.setArgs_cache (s : State) (v : Args) : (s.setArgs v).cache = s.cache := rfl
@[simp] theorem State.setArgs_hbuf (s : State) (v : Args) : (s.setArgs v).hbuf = s.hbuf := rfl
@[simp] theorem State.setArgs_hal (s : State) (v : Args) : (s.setArgs v).hal = s.hal := rfl
@[simp] theorem State.setArgs_fg (s : State) (v : Args) : (s.setArgs v).fg = s.fg := rfl
@[simp] theorem State.setArgs_st (s : State) (v : Args) : (s.setArgs v).st = s.st := rfl
@[simp] theorem State.setArgs_bus (s : State) (v : Args) : (s.setArgs v).bus = s.bus := rfl
@[simp] theorem State.setArgs_inputs (s : State) (v : Args) : (s.setArgs v).inputs = s.inputs := rfl
@[simp] theorem State.setArgs_plan (s : State) (v : Args) : (s.setArgs v).plan = s.plan := rfl
@[simp] theorem State.setArgs_trace (s : State) (v : Args) : (s.setArgs v).trace = s.trace := rfl
@[simp] theorem State.setArgs_free (s : State) (v : Args) : (s.setArgs v).free = s.free := rfl
@[simp] theorem State.setArgs_pipe (s : State) (v : Args) (q : Nat) : (s.setArgs v).pipe q = s.pipe q := rfl
@[simp] theorem State.setArgs_job (s : State) (v : Args) (q : Nat) : (s.setArgs v).job q = s.job q := rfl
@[simp] theorem State.setArgs_iface (s : State) (v : Args) (q : Nat) : (s.setArgs v).iface q = s.iface q := rfl
@[simp] theorem State.setArgs_halPipe (s : State) (v : Args) (q : Nat) : (s.setArgs v).halPipe q = s.halPipe q := rfl
@[simp] theorem State.setArgs_cacheByte (s : State) (v : Args) (k : Nat) : (s.setArgs v).cacheByte k = s.cacheByte k := rfl
@[simp] theorem State.setArgs_hostByte (s : State) (v : Args) (c k : Nat) : (s.setArgs v).hostByte c k = s.hostByte c k := rfl
@[simp] theorem State.setArgs_anyArmed (s : State) (v : Args) : (s.setArgs v).anyArmed = s.anyArmed := rfl

/-! ### `State.setRes` -/

@[simp] theorem State.setRes_cfg (s : State) (v : Results) : (s.setRes v).cfg = s.cfg := rfl
@[simp] theorem State.setRes_tables (s : State) (v : Results) : (s.setRes v).tables = s.tables := rfl
@[simp] theorem State.setRes_ds (s : State) (v : Results) : (s.setRes v).ds = s.ds := rfl
@[simp] theorem State.setRes_ct (s : State) (v : Results) : (s.setRes v).ct = s.ct := rfl
@[simp] theorem State.setRes_sp (s : State) (v : Results) : (s.setRes v).sp = s.sp := rfl
@[simp] theorem State.setRes_flags (s : State) (v : Results) : (s.setRes v).flags = s.flags := rfl
@[simp] theorem State.setRes_en (s : State) (v : Results) : (s.setRes v).en = s.en := rfl
@[simp] theorem State.setRes_cnt (s : State) (v : Results) : (s.setRes v).cnt = s.cnt := rfl
@[simp] theorem State.setRes_ident (s : State) (v : Results) : (s.setRes v).ident = s.ident := rfl
@[simp] theorem State.setRes_sr (s : State) (v : Results) : (s.setRes v).sr = s.sr := rfl
@[simp] theorem State.setRes_cacheLen (s : State) (v : Results) : (s.setRes v).cacheLen = s.cacheLen := rfl
@[simp] theorem State.setRes_nsi (s : State) (v : Results) : (s.setRes v).nsi = s.nsi := rfl
@[simp] theorem State.setRes_si (s : State) (v : Results) : (s.setRes v).si = s.si := rfl
@[simp] theorem State.setRes_parse (s : State) (v : Results) : (s.setRes v).parse = s.parse := rfl
@[simp] theorem State.setRes_pipes (s : State) (v : Results) : (s.setRes v).pipes = s.pipes := rfl
@[simp] theorem State.setRes_jobs (s : State) (v : Results) : (s.setRes v).jobs = s.jobs := rfl
@[simp] theorem State.setRes_args (s : State) (v : Results) : (s.setRes v).args = s.args := rfl
@[simp] theorem State.setRes_res (s : State) (v : Results) : (s.setRes v).res = v := rfl
@[simp] theorem State.setRes_cache (s : State) (v : Results) : (s.setRes v).cache = s.cache := rfl
@[simp] theorem State.setRes_hbuf (s : State) (v : Results) : (s.setRes v).hbuf = s.hbuf := rfl
@[simp] theorem State.setRes_hal (s : State) (v : Results) : (s.setRes v).hal = s.hal := rfl
@[simp] theorem State.setRes_fg (s : State) (v : Results) : (s.setRes v).fg = s.fg := rfl
@[simp] theorem State.setRes_st (s : State) (v : Results) : (s.setRes v).st = s.st := rfl
@[simp] theorem State.setRes_bus (s : State) (v : Results) : (s.setRes v).bus = s.bus := rfl
@[simp] theorem State.setRes_inputs (s : State) (v : Results) : (s.setRes v).inputs = s.inputs := rfl
@[simp] theorem State.setRes_plan (s : State) (v : Results) : (s.setRes v).plan = s.plan := rfl
@[simp] theorem State.setRes_trace (s : State) (v : Results) : (s.setRes v).trace = s.trace := rfl
@[simp] theorem State.setRes_free (s : State) (v : Results) : (s.setRes v).free = s.free := rfl
@[simp] theorem State.setRes_pipe (s : State) (v : Results) (q : Nat) : (s.setRes v).pipe q = s.pipe q := rfl
@[simp] theorem State.setRes_job (s : State) (v : Results) (q : Nat) : (s.setRes v).job q = s.job q := rfl
@[simp] theorem State.setRes_iface (s : State) (v : Results) (q : Nat) : (s.setRes v).iface q = s.iface q := rfl
@[simp] theorem State.setRes_halPipe (s : State) (v : Results) (q : Nat) : (s.setRes v).halPipe q = s.halPipe q := rfl
@[simp] theorem State.setRes_cacheByte (s : State) (v : Results) (k : Nat) : (s.setRes v).cacheByte k = s.cacheByte k := rfl
@[simp] theorem State.setRes_hostByte (s : State) (v : Results) (c k : Nat) : (s.setRes v).hostByte c k = s.hostByte c k := rfl
@[simp] theorem State.setRes_anyArmed (s : State) (v : Results) : (s.setRes v).anyArmed = s.anyArmed := rfl

/-! ### `State.setCache` -/

@[simp] theorem State.setCache_cfg (s : State) (v : List Host.Cell) : (s.setCache v).cfg = s.cfg := rfl
@[simp] theorem State.setCache_tables (s : State) (v : List Host.Cell) : (s.setCache v).tables = s.tables := rfl
@[simp] theorem State.setCache_ds (s : State) (v : List Host.Cell) : (s.setCache v).ds = s.ds := rfl
@[simp] theorem State.setCache_ct (s : State) (v : List Host.Cell) : (s.setCache v).ct = s.ct := rfl
@[simp] theorem State.setCache_sp (s : State) (v : List Host.Cell) : (s.setCache v).sp = s.sp := rfl
@[simp] theorem State.setCache_flags (s : State) (v : List Host.Cell) : (s.setCache v).flags = s.flags := rfl
@[simp] theorem State.setCache_en (s : State) (v : List Host.Cell) : (s.setCache v).en = s.en := rfl
@[simp] theorem State.setCache_cnt (s : State) (v : List Host.Cell) : (s.setCache v).cnt = s.cnt := rfl
@[simp] theorem State.setCache_ident (s : State) (v : List Host.Cell) : (s.setCache v).ident = s.ident := rfl
@[simp] theorem State.setCache_sr (s : State) (v : List Host.Cell) : (s.setCache v).sr = s.sr := rfl
@[simp] theorem State.setCache_cacheLen (s : State) (v : List Host.Cell) : (s.setCache v).cacheLen = s.cacheLen := rfl
@[simp] theorem State.setCache_nsi (s : State) (v : List Host.Cell) : (s.setCache v).nsi = s.nsi := rfl
@[simp] theorem State.setCache_si (s : State) (v : List Host.Cell) : (s.setCache v).si = s.si := rfl
@[simp] theorem State.setCache_parse (s : State) (v : List Host.Cell) : (s.setCache v).parse = s.parse := rfl
@[simp] theorem State.setCache_pipes (s : State) (v : List Host.Cell) : (s.setCache v).pipes = s.pipes := rfl
@[simp] theorem State.setCache_jobs (s : State) (v : List Host.Cell) : (s.setCache v).jobs = s.jobs := rfl
@[simp] theorem State.setCache_args (s : State) (v : List Host.Cell) : (s.setCache v).args = s.args := rfl
@[simp] theorem State.setCache_res (s : State) (v : List Host.Cell) : (s.setCache v).res = s.res := rfl
@[simp] theorem State.setCache_cache (s : State) (v : List Host.Cell) : (s.setCache v).cache = v := rfl
@[simp] theorem State.setCache_hbuf (s : State) (v : List Host.Cell) : (s.setCache v).hbuf = s.hbuf := rfl
@[simp] theorem State.setCache_hal (s : State) (v : List Host.Cell) : (s.setCache v).hal = s.hal := rfl
@[simp] theorem State.setCache_fg (s : State) (v : List Host.Cell) : (s.setCache v).fg = s.fg := rfl
@[simp] theorem State.setCache_st (s : State) (v : List Host.Cell) : (s.setCache v).st = s.st := rfl
@[simp] theorem State.setCache_bus (s : State) (v : List Host.Cell) : (s.setCache v).bus = s.bus := rfl
@[simp] theorem State.setCache_inputs (s : State) (v : List Host.Cell) : (s.setCache v).inputs = s.inputs := rfl
@[simp] theorem State.setCache_plan (s : State) (v : List Host.Cell) : (s.setCache v).plan = s.plan := rfl
@[simp] theorem State.setCache_trace (s : State) (v : List Host.Cell) : (s.setCache v).trace = s.trace := rfl
@[simp] theorem State.setCache_free (s : State) (v : List Host.Cell) : (s.setCache v).free = s.free := rfl
@[simp] theorem State.setCache_pipe (s : State) (v : List Host.Cell) (q : Nat) : (s.setCache v).pipe q = s.pipe q := rfl
@[simp] theorem State.setCache_job (s : State) (v : List Host.Cell) (q : Nat) : (s.setCache v).job q = s.job q := rfl
@[simp] theorem State.setCache_iface (s : State) (v : List Host.Cell) (q : Nat) : (s.setCache v).iface q = s.iface q := rfl
@[simp] theorem State.setCache_halPipe (s : State) (v : List Host.Cell) (q : Nat) : (s.setCache v).halPipe q = s.halPipe q := rfl
@[simp] theorem State.setCache_hostByte (s : State) (v : List Host.Cell) (c k : Nat) : (s.setCache v).hostByte c k = s.hostByte c k := rfl
@[simp] theorem State.setCache_anyArmed (s : State) (v : List Host.Cell) : (s.setCache v).anyArmed = s.anyArmed := rfl

/-! ### `State.setHbuf` -/

@[simp] theorem State.setHbuf_cfg (s : State) (v : List Host.Cell) : (s.setHbuf v).cfg = s.cfg := rfl
@[simp] theorem State.setHbuf_tables (s : State) (v : List Host.Cell) : (s.setHbuf v).tables = s.tables := rfl
@[simp] theorem State.setHbuf_ds (s : State) (v : List Host.Cell) : (s.setHbuf v).ds = s.ds := rfl
@[simp] theorem State.setHbuf_ct (s : State) (v : List Host.Cell) : (s.setHbuf v).ct = s.ct := rfl
@[simp] theorem State.setHbuf_sp (s : State) (v : List Host.Cell) : (s.setHbuf v).sp = s.sp := rfl
@[simp] theorem State.setHbuf_flags (s : State) (v : List Host.Cell) : (s.setHbuf v).flags = s.flags := rfl
@[simp] theorem State.setHbuf_en (s : State) (v : List Host.Cell) : (s.setHbuf v).en = s.en := rfl
@[simp] theorem State.setHbuf_cnt (s : State) (v : List Host.Cell) : (s.setHbuf v).cnt = s.cnt := rfl
@[simp] theorem State.setHbuf_ident (s : State) (v : List Host.Cell) : (s.setHbuf v).ident = s.ident := rfl
@[simp] theorem State.setHbuf_sr (s : State) (v : List Host.Cell) : (s.setHbuf v).sr = s.sr := rfl
@[simp] theorem State.setHbuf_cacheLen (s : State) (v : List Host.Cell) : (s.setHbuf v).cacheLen = s.cacheLen := rfl
@[simp] theorem State.setHbuf_nsi (s : State) (v : List Host.Cell) : (s.setHbuf v).nsi = s.nsi := rfl
@[simp] theorem State.setHbuf_si (s : State) (v : List Host.Cell) : (s.setHbuf v).si = s.si := rfl
@[simp] theorem State.setHbuf_parse (s : State) (v : List Host.Cell) : (s.setHbuf v).parse = s.parse := rfl
@[simp] theorem State.setHbuf_pipes (s : State) (v : List Host.Cell) : (s.setHbuf v).pipes = s.pipes := rfl
@[simp] theorem State.setHbuf_jobs (s : State) (v : List Host.Cell) : (s.setHbuf v).jobs = s.jobs := rfl
@[simp] theorem State.setHbuf_args (s : State) (v : List Host.Cell) : (s.setHbuf v).args = s.args := rfl
@[simp] theorem State.setHbuf_res (s : State) (v : List Host.Cell) : (s.setHbuf v).res = s.res := rfl
@[simp] theorem State.setHbuf_cache (s : State) (v : List Host.Cell) : (s.setHbuf v).cache = s.cache := rfl
@[simp] theorem State.setHbuf_hbuf (s : State) (v : List Host.Cell) : (s.setHbuf v).hbuf = v := rfl
@[simp] theorem State.setHbuf_hal (s : State) (v : List Host.Cell) : (s.setHbuf v).hal = s.hal := rfl
@[simp] theorem State.setHbuf_fg (s : State) (v : List Host.Cell) : (s.setHbuf v).fg = s.fg := rfl
@[simp] theorem State.setHbuf_st (s : State) (v : List Host.Cell) : (s.setHbuf v).st = s.st := rfl
@[simp] theorem State.setHbuf_bus (s : State) (v : List Host.Cell) : (s.setHbuf v).bus = s.bus := rfl
@[simp] theorem State.setHbuf_inputs (s : State) (v : List Host.Cell) : (s.setHbuf v).inputs = s.inputs := rfl
@[simp] theorem State.setHbuf_plan (s : State) (v : List Host.Cell) : (s.setHbuf v).plan = s.plan := rfl
@[simp] theorem State.setHbuf_trace (s : State) (v : List Host.Cell) : (s.setHbuf v).trace = s.trace := rfl
@[simp] theorem State.setHbuf_free (s : State) (v : List Host.Cell) : (s.setHbuf v).free = s.free := rfl
@[simp] theorem State.setHbuf_pipe (s : State) (v : List Host.Cell) (q : Nat) : (s.setHbuf v).pipe q = s.pipe q := rfl
@[simp] theorem State.setHbuf_job (s : State) (v : List Host.Cell) (q : Nat) : (s.setHbuf v).job q = s.job q := rfl
@[simp] theorem State.setHbuf_iface (s : State) (v : List Host.Cell) (q : Nat) : (s.setHbuf v).iface q = s.iface q := rfl
@[simp] theorem State.setHbuf_halPipe (s : State) (v : List Host.Cell) (q : Nat) : (s.setHbuf v).halPipe q = s.halPipe q := rfl
@[simp] theorem State.setHbuf_cacheByte (s : State) (v : List Host.Cell) (k : Nat) : (s.setHbuf v).cacheByte k = s.cacheByte k := rfl
@[simp] theorem State.setHbuf_anyArmed (s : State) (v : List Host.Cell) : (s.setHbuf v).anyArmed = s.anyArmed := rfl

/-! ### `State.setHal` -/

@[simp] theorem State.setHal_cfg (s : State) (v : Hal) : (s.setHal v).cfg = s.cfg := rfl
@[simp] theorem State.setHal_tables (s : State) (v : Hal) : (s.setHal v).tables = s.tables := rfl
@[simp] theorem State.setHal_ds (s : State) (v : Hal) : (s.setHal v).ds = s.ds := rfl
@[simp] theorem State.setHal_ct (s : State) (v : Hal) : (s.setHal v).ct = s.ct := rfl
@[simp] theorem State.setHal_sp (s : State) (v : Hal) : (s.setHal v).sp = s.sp := rfl
@[simp] theorem State.setHal_flags (s : State) (v : Hal) : (s.setHal v).flags = s.flags := rfl
@[simp] theorem State.setHal_en (s : State) (v : Hal) : (s.setHal v).en = s.en := rfl
@[simp] theorem State.setHal_cnt (s : State) (v : Hal) : (s.setHal v).cnt = s.cnt := rfl
@[simp] theorem State.setHal_ident (s : State) (v : Hal) : (s.setHal v).ident = s.ident := rfl
@[simp] theorem State.setHal_sr (s : State) (v : Hal) : (s.setHal v).sr = s.sr := rfl
@[simp] theorem State.setHal_cacheLen (s : State) (v : Hal) : (s.setHal v).cacheLen = s.cacheLen := rfl
@[simp] theorem State.setHal_nsi (s : State) (v : Hal) : (s.setHal v).nsi = s.nsi := rfl
@[simp] theorem State.setHal_si (s : State) (v : Hal) : (s.setHal v).si = s.si := rfl
@[simp] theorem State.setHal_parse (s : State) (v : Hal) : (s.setHal v).parse = s.parse := rfl
@[simp] theorem State.setHal_pipes (s : State) (v : Hal) : (s.setHal v).pipes = s.pipes := rfl
@[simp] theorem State.setHal_jobs (s : State) (v : Hal) : (s.setHal v).jobs = s.jobs := rfl
@[simp] theorem State.setHal_args (s : State) (v : Hal) : (s.setHal v).args = s.args := rfl
@[simp] theorem State.setHal_res (s : State) (v : Hal) : (s.setHal v).res = s.res := rfl
@[simp] theorem State.setHal_cache (s : State) (v : Hal) : (s.setHal v).cache = s.cache := rfl
@[simp] theorem State.setHal_hbuf (s : State) (v : Hal) : (s.setHal v).hbuf = s.hbuf := rfl
@[simp] theorem State.setHal_hal (s : State) (v : Hal) : (s.setHal v).hal = v := rfl
@[simp] theorem State.setHal_fg (s : State) (v : Hal) : (s.setHal v).fg = s.fg := rfl
@[simp] theorem State.setHal_st (s : State) (v : Hal) : (s.setHal v).st = s.st := rfl
@[simp] theorem State.setHal_bus (s : State) (v : Hal) : (s.setHal v).bus = s.bus := rfl
@[simp] theorem State.setHal_inputs (s : State) (v : Hal) : (s.setHal v).inputs = s.inputs := rfl
@[simp] theorem State.setHal_plan (s : State) (v : Hal) : (s.setHal v).plan = s.plan := rfl
@[simp] theorem State.setHal_trace (s : State) (v : Hal) : (s.setHal v).trace = s.trace := rfl
@[simp] theorem State.setHal_free (s : State) (v : Hal) : (s.setHal v).free = s.free := rfl
@[simp] theorem State.setHal_pipe (s : State) (v : Hal) (q : Nat) : (s.setHal v).pipe q = s.pipe q := rfl
@[simp] theorem State.setHal_job (s : State) (v : Hal) (q : Nat) : (s.setHal v).job q = s.job q := rfl
@[simp] theorem State.setHal_iface (s : State) (v : Hal) (q : Nat) : (s.setHal v).iface q = s.iface q := rfl
@[simp] theorem State.setHal_cacheByte (s : State) (v : Hal) (k : Nat) : (s.setHal v).cacheByte k = s.cacheByte k := rfl
@[simp] theorem State.setHal_hostByte (s : State) (v : Hal) (c k : Nat) : (s.setHal v).hostByte c k = s.hostByte c k := rfl
@[simp] theorem State.setHal_anyArmed (s : State) (v : Hal) : (s.setHal v).anyArmed = s.anyArmed := rfl

/-! ### `State.setFg` -/

@[simp] theorem State.setFg_cfg (s : State) (v : List Micro) : (s.setFg v).cfg = s.cfg := rfl
@[simp] theorem State.setFg_tables (s : State) (v : List Micro) : (s.setFg v).tables = s.tables := rfl
@[simp] theorem State.setFg_ds (s : State) (v : List Micro) : (s.setFg v).ds = s.ds := rfl
@[simp] theorem State.setFg_ct (s : State) (v : List Micro) : (s.setFg v).ct = s.ct := rfl
@[simp] theorem State.setFg_sp (s : State) (v : List Micro) : (s.setFg v).sp = s.sp := rfl
@[simp] theorem State.setFg_flags (s : State) (v : List Micro) : (s.setFg v).flags = s.flags := rfl
@[simp] theorem State.setFg_en (s : State) (v : List Micro) : (s.setFg v).en = s.en := rfl
@[simp] theorem State.setFg_cnt (s : State) (v : List Micro) : (s.setFg v).cnt = s.cnt := rfl
@[simp] theorem State.setFg_ident (s : State) (v : List Micro) : (s.setFg v).ident = s.ident := rfl
@[simp] theorem State.setFg_sr (s : State) (v : List Micro) : (s.setFg v).sr = s.sr := rfl
@[simp] theorem State.setFg_cacheLen (s : State) (v : List Micro) : (s.setFg v).cacheLen = s.cacheLen := rfl
@[simp] theorem State.setFg_nsi (s : State) (v : List Micro) : (s.setFg v).nsi = s.nsi := rfl
@[simp] theorem State.setFg_si (s : State) (v : List Micro) : (s.setFg v).si = s.si := rfl
@[simp] theorem State.setFg_parse (s : State) (v : List Micro) : (s.setFg v).parse = s.parse := rfl
@[simp] theorem State.setFg_pipes (s : State) (v : List Micro) : (s.setFg v).pipes = s.pipes := rfl
@[simp] theorem State.setFg_jobs (s : State) (v : List Micro) : (s.setFg v).jobs = s.jobs := rfl
@[simp] theorem State.setFg_args (s : State) (v : List Micro) : (s.setFg v).args = s.args := rfl
@[simp] theorem State.setFg_res (s : State) (v : List Micro) : (s.setFg v).res = s.res := rfl
@[simp] theorem State.setFg_cache (s : State) (v : List Micro) : (s.setFg v).cache = s.cache := rfl
@[simp] theorem State.setFg_hbuf (s : State) (v : List Micro) : (s.setFg v).hbuf = s.hbuf := rfl
@[simp] theorem State.setFg_hal (s : State) (v : List Micro) : (s.setFg v).hal = s.hal := rfl
@[simp] theorem State.setFg_fg (s : State) (v : List Micro) : (s.setFg v).fg = v := rfl
@[simp] theorem State.setFg_st (s : State) (v : List Micro) : (s.setFg v).st = s.st := rfl
@[simp] theorem State.setFg_bus (s : State) (v : List Micro) : (s.setFg v).bus = s.bus := rfl
@[simp] theorem State.setFg_inputs (s : State) (v : List Micro) : (s.setFg v).inputs = s.inputs := rfl
@[simp] theorem State.setFg_plan (s : State) (v : List Micro) : (s.setFg v).plan = s.plan := rfl
@[simp] theorem State.setFg_trace (s : State) (v : List Micro) : (s.setFg v).trace = s.trace := rfl
@[simp] theorem State.setFg_free (s : State) (v : List Micro) : (s.setFg v).free = s.free := rfl
@[simp] theorem State.setFg_pipe (s : State) (v : List Micro) (q : Nat) : (s.setFg v).pipe q = s.pipe q := rfl
@[simp] theorem State.setFg_job (s : State) (v : List Micro) (q : Nat) : (s.setFg v).job q = s.job q := rfl
@[simp] theorem State.setFg_iface (s : State) (v : List Micro) (q : Nat) : (s.setFg v).iface q = s.iface q := rfl
@[simp] theorem State.setFg_halPipe (s : State) (v : List Micro) (q : Nat) : (s.setFg v).halPipe q = s.halPipe q := rfl
@[simp] theorem State.setFg_cacheByte (s : State) (v : List Micro) (k : Nat) : (s.setFg v).cacheByte k = s.cacheByte k := rfl
@[simp] theorem State.setFg_hostByte (s : State) (v : List Micro) (c k : Nat) : (s.setFg v).hostByte c k = s.hostByte c k := rfl
@[simp] theorem State.setFg_anyArmed (s : State) (v : List Micro) : (s.setFg v).anyArmed = s.anyArmed := rfl

/-! ### `State.setSt` -/

@[simp] theorem State.setSt_cfg (s : State) (v : Status) : (s.setSt v).cfg = s.cfg := rfl
@[simp] theorem State.setSt_tables (s : State) (v : Status) : (s.setSt v).tables = s.tables := rfl
@[simp] theorem State.setSt_ds (s : State) (v : Status) : (s.setSt v).ds = s.ds := rfl
@[simp] theorem State.setSt_ct (s : State) (v : Status) : (s.setSt v).ct = s.ct := rfl
@[simp] theorem State.setSt_sp (s : State) (v : Status) : (s.setSt v).sp = s.sp := rfl
@[simp] theorem State.setSt_flags (s : State) (v : Status) : (s.setSt v).flags = s.flags := rfl
@[simp] theorem State.setSt_en (s : State) (v : Status) : (s.setSt v).en = s.en := rfl
@[simp] theorem State.setSt_cnt (s : State) (v : Status) : (s.setSt v).cnt = s.cnt := rfl
@[simp] theorem State.setSt_ident (s : State) (v : Status) : (s.setSt v).ident = s.ident := rfl
@[simp] theorem State.setSt_sr (s : State) (v : Status) : (s.setSt v).sr = s.sr := rfl
@[simp] theorem State.setSt_cacheLen (s : State) (v : Status) : (s.setSt v).cacheLen = s.cacheLen := rfl
@[simp] theorem State.setSt_nsi (s : State) (v : Status) : (s.setSt v).nsi = s.nsi := rfl
@[simp] theorem State.setSt_si (s : State) (v : Status) : (s.setSt v).si = s.si := rfl
@[simp] theorem State.setSt_parse (s : State) (v : Status) : (s.setSt v).parse = s.parse := rfl
@[simp] theorem State.setSt_pipes (s : State) (v : Status) : (s.setSt v).pipes = s.pipes := rfl
@[simp] theorem State.setSt_jobs (s : State) (v : Status) : (s.setSt v).jobs = s.jobs := rfl
@[simp] theorem State.setSt_args (s : State) (v : Status) : (s.setSt v).args = s.args := rfl
@[simp] theorem State.setSt_res (s : State) (v : Status) : (s.setSt v).res = s.res := rfl
@[simp] theorem State.setSt_cache (s : State) (v : Status) : (s.setSt v).cache = s.cache := rfl
@[simp] theorem State.setSt_hbuf (s : State) (v : Status) : (s.setSt v).hbuf = s.hbuf := rfl
@[simp] theorem State.setSt_hal (s : State) (v : Status) : (s.setSt v).hal = s.hal := rfl
@[simp] theorem State.setSt_fg (s : State) (v : Status) : (s.setSt v).fg = s.fg := rfl
@[simp] theorem State.setSt_st (s : State) (v : Status) : (s.setSt v).st = v := rfl
@[simp] theorem State.setSt_bus (s : State) (v : Status) : (s.setSt v).bus = s.bus := rfl
@[simp] theorem State.setSt_inputs (s : State) (v : Status) : (s.setSt v).inputs = s.inputs := rfl
@[simp] theorem State.setSt_plan (s : State) (v : Status) : (s.setSt v).plan = s.plan := rfl
@[simp] theorem State.setSt_trace (s : State) (v : Status) : (s.setSt v).trace = s.trace := rfl
@[simp] theorem State.setSt_free (s : State) (v : Status) : (s.setSt v).free = s.free := rfl
@[simp] theorem State.setSt_pipe (s : State) (v : Status) (q : Nat) : (s.setSt v).pipe q = s.pipe q := rfl
@[simp] theorem State.setSt_job (s : State) (v : Status) (q : Nat) : (s.setSt v).job q = s.job q := rfl
@[simp] theorem State.setSt_iface (s : State) (v : Status) (q : Nat) : (s.setSt v).iface q = s.iface q := rfl
@[simp] theorem State.setSt_halPipe (s : State) (v : Status) (q : Nat) : (s.setSt v).halPipe q = s.halPipe q := rfl
@[simp] theorem State.setSt_cacheByte (s : State) (v : Status) (k : Nat) : (s.setSt v).cacheByte k = s.cacheByte k := rfl
@[simp] theorem State.setSt_hostByte (s : State) (v : Status) (c k : Nat) : (s.setSt v).hostByte c k = s.hostByte c k := rfl
@[simp] theorem State.setSt_anyArmed (s : State) (v : Status) : (s.setSt v).anyArmed = s.anyArmed := rfl

/-! ### `State.setBus` -/

@[simp] theorem State.setBus_cfg (s : State) (v : Option Presented) : (s.setBus v).cfg = s.cfg := rfl
@[simp] theorem State.setBus_tables (s : State) (v : Option Presented) : (s.setBus v).tables = s.tables := rfl
@[simp] theorem State.setBus_ds (s : State) (v : Option Presented) : (s.setBus v).ds = s.ds := rfl
@[simp] theorem State.setBus_ct (s : State) (v : Option Presented) : (s.setBus v).ct = s.ct := rfl
@[simp] theorem State.setBus_sp (s : State) (v : Option Presented) : (s.setBus v).sp = s.sp := rfl
@[simp] theorem State.setBus_flags (s : State) (v : Option Presented) : (s.setBus v).flags = s.flags := rfl
@[simp] theorem State.setBus_en (s : State) (v : Option Presented) : (s.setBus v).en = s.en := rfl
@[simp] theorem State.setBus_cnt (s : State) (v : Option Presented) : (s.setBus v).cnt = s.cnt := rfl
@[simp] theorem State.setBus_ident (s : State) (v : Option Presented) : (s.setBus v).ident = s.ident := rfl
@[simp] theorem State.setBus_sr (s : State) (v : Option Presented) : (s.setBus v).sr = s.sr := rfl
@[simp] theorem State.setBus_cacheLen (s : State) (v : Option Presented) : (s.setBus v).cacheLen = s.cacheLen := rfl
@[simp] theorem State.setBus_nsi (s : State) (v : Option Presented) : (s.setBus v).nsi = s.nsi := rfl
@[simp] theorem State.setBus_si (s : State) (v : Option Presented) : (s.setBus v).si = s.si := rfl
@[simp] theorem State.setBus_parse (s : State) (v : Option Presented) : (s.setBus v).parse = s.parse := rfl
@[simp] theorem State.setBus_pipes (s : State) (v : Option Presented) : (s.setBus v).pipes = s.pipes := rfl
@[simp] theorem State.setBus_jobs (s : State) (v : Option Presented) : (s.setBus v).jobs = s.jobs := rfl
@[simp] theorem State.setBus_args (s : State) (v : Option Presented) : (s.setBus v).args = s.args := rfl
@[simp] theorem State.setBus_res (s : State) (v : Option Presented) : (s.setBus v).res = s.res := rfl
@[simp] theorem State.setBus_cache (s : State) (v : Option Presented) : (s.setBus v).cache = s.cache := rfl
@[simp] theorem State.setBus_hbuf (s : State) (v : Option Presented) : (s.setBus v).hbuf = s.hbuf := rfl
@[simp] theorem State.setBus_hal (s : State) (v : Option Presented) : (s.setBus v).hal = s.hal := rfl
@[simp] theorem State.setBus_fg (s : State) (v : Option Presented) : (s.setBus v).fg = s.fg := rfl
@[simp] theorem State.setBus_st (s : State) (v : Option Presented) : (s.setBus v).st = s.st := rfl
@[simp] theorem State.setBus_bus (s : State) (v : Option Presented) : (s.setBus v).bus = v := rfl
@[simp] theorem State.setBus_inputs (s : State) (v : Option Presented) : (s.setBus v).inputs = s.inputs := rfl
@[simp] theorem State.setBus_plan (s : State) (v : Option Presented) : (s.setBus v).plan = s.plan := rfl
@[simp] theorem State.setBus_trace (s : State) (v : Option Presented) : (s.setBus v).trace = s.trace := rfl
@[simp] theorem State.setBus_free (s : State) (v : Option Presented) : (s.setBus v).free = s.free := rfl
@[simp] theorem State.setBus_pipe (s : State) (v : Option Presented) (q : Nat) : (s.setBus v).pipe q = s.pipe q := rfl
@[simp] theorem State.setBus_job (s : State) (v : Option Presented) (q : Nat) : (s.setBus v).job q = s.job q := rfl
@[simp] theorem State.setBus_iface (s : State) (v : Option Presented) (q : Nat) : (s.setBus v).iface q = s.iface q := rfl
@[simp] theorem State.setBus_halPipe (s : State) (v : Option Presented) (q : Nat) : (s.setBus v).halPipe q = s.halPipe q := rfl
@[simp] theorem State.setBus_cacheByte (s : State) (v : Option Presented) (k : Nat) : (s.setBus v).cacheByte k = s.cacheByte k := rfl
@[simp] theorem State.setBus_hostByte (s : State) (v : Option Presented) (c k : Nat) : (s.setBus v).hostByte c k = s.hostByte c k := rfl
@[simp] theorem State.setBus_anyArmed (s : State) (v : Option Presented) : (s.setBus v).anyArmed = s.anyArmed := rfl

/-! ### `State.setInputs` -/

@[simp] theorem State.setInputs_cfg (s : State) (v : List Input) : (s.setInputs v).cfg = s.cfg := rfl
@[simp] theorem State.setInputs_tables (s : State) (v : List Input) : (s.setInputs v).tables = s.tables := rfl
@[simp] theorem State.setInputs_ds (s : State) (v : List Input) : (s.setInputs v).ds = s.ds := rfl
@[simp] theorem State.setInputs_ct (s : State) (v : List Input) : (s.setInputs v).ct = s.ct := rfl
@[simp] theorem State.setInputs_sp (s : State) (v : List Input) : (s.setInputs v).sp = s.sp := rfl
@[simp] theorem State.setInputs_flags (s : State) (v : List Input) : (s.setInputs v).flags = s.flags := rfl
@[simp] theorem State.setInputs_en (s : State) (v : List Input) : (s.setInputs v).en = s.en := rfl
@[simp] theorem State.setInputs_cnt (s : State) (v : List Input) : (s.setInputs v).cnt = s.cnt := rfl
@[simp] theorem State.setInputs_ident (s : State) (v : List Input) : (s.setInputs v).ident = s.ident := rfl
@[simp] theorem State.setInputs_sr (s : State) (v : List Input) : (s.setInputs v).sr = s.sr := rfl
@[simp] theorem State.setInputs_cacheLen (s : State) (v : List Input) : (s.setInputs v).cacheLen = s.cacheLen := rfl
@[simp] theorem State.setInputs_nsi (s : State) (v : List Input) : (s.setInputs v).nsi = s.nsi := rfl
@[simp] theorem State.setInputs_si (s : State) (v : List Input) : (s.setInputs v).si = s.si := rfl
@[simp] theorem State.setInputs_parse (s : State) (v : List Input) : (s.setInputs v).parse = s.parse := rfl
@[simp] theorem State.setInputs_pipes (s : State) (v : List Input) : (s.setInputs v).pipes = s.pipes := rfl
@[simp] theorem State.setInputs_jobs (s : State) (v : List Input) : (s.setInputs v).jobs = s.jobs := rfl
@[simp] theorem State.setInputs_args (s : State) (v : List Input) : (s.setInputs v).args = s.args := rfl
@[simp] theorem State.setInputs_res (s : State) (v : List Input) : (s.setInputs v).res = s.res := rfl
@[simp] theorem State.setInputs_cache (s : State) (v : List Input) : (s.setInputs v).cache = s.cache := rfl
@[simp] theorem State.setInputs_hbuf (s : State) (v : List Input) : (s.setInputs v).hbuf = s.hbuf := rfl
@[simp] theorem State.setInputs_hal (s : State) (v : List Input) : (s.setInputs v).hal = s.hal := rfl
@[simp] theorem State.setInputs_fg (s : State) (v : List Input) : (s.setInputs v).fg = s.fg := rfl
@[simp] theorem State.setInputs_st (s : State) (v : List Input) : (s.setInputs v).st = s.st := rfl
@[simp] theorem State.setInputs_bus (s : State) (v : List Input) : (s.setInputs v).bus = s.bus := rfl
@[simp] theorem State.setInputs_inputs (s : State) (v : List Input) : (s.setInputs v).inputs = v := rfl
@[simp] theorem State.setInputs_plan (s : State) (v : List Input) : (s.setInputs v).plan = s.plan := rfl
@[simp] theorem State.setInputs_trace (s : State) (v : List Input) : (s.setInputs v).trace = s.trace := rfl
@[simp] theorem State.setInputs_free (s : State) (v : List Input) : (s.setInputs v).free = s.free := rfl
@[simp] theorem State.setInputs_pipe (s : State) (v : List Input) (q : Nat) : (s.setInputs v).pipe q = s.pipe q := rfl
@[simp] theorem State.setInputs_job (s : State) (v : List Input) (q : Nat) : (s.setInputs v).job q = s.job q := rfl
@[simp] theorem State.setInputs_iface (s : State) (v : List Input) (q : Nat) : (s.setInputs v).iface q = s.iface q := rfl
@[simp] theorem State.setInputs_halPipe (s : State) (v : List Input) (q : Nat) : (s.setInputs v).halPipe q = s.halPipe q := rfl
@[simp] theorem State.setInputs_cacheByte (s : State) (v : List Input) (k : Nat) : (s.setInputs v).cacheByte k = s.cacheByte k := rfl
@[simp] theorem State.setInputs_hostByte (s : State) (v : List Input) (c k : Nat) : (s.setInputs v).hostByte c k = s.hostByte c k := rfl
@[simp] theorem State.setInputs_anyArmed (s : State) (v : List Input) : (s.setInputs v).anyArmed = s.anyArmed := rfl

/-! ### `State.setPlan` -/

@[simp] theorem State.setPlan_cfg (s : State) (v : List (List NestedCmd)) : (s.setPlan v).cfg = s.cfg := rfl
@[simp] theorem State.setPlan_tables (s : State) (v : List (List NestedCmd)) : (s.setPlan v).tables = s.tables := rfl
@[simp] theorem State.setPlan_ds (s : State) (v : List (List NestedCmd)) : (s.setPlan v).ds = s.ds := rfl
@[simp] theorem State.setPlan_ct (s : State) (v : List (List NestedCmd)) : (s.setPlan v).ct = s.ct := rfl
@[simp] theorem State.setPlan_sp (s : State) (v : List (List NestedCmd)) : (s.setPlan v).sp = s.sp := rfl
@[simp] theorem State.setPlan_flags (s : State) (v : List (List NestedCmd)) : (s.setPlan v).flags = s.flags := rfl
@[simp] theorem State.setPlan_en (s : State) (v : List (List NestedCmd)) : (s.setPlan v).en = s.en := rfl
@[simp] theorem State.setPlan_cnt (s : State) (v : List (List NestedCmd)) : (s.setPlan v).cnt = s.cnt := rfl
@[simp] theorem State.setPlan_ident (s : State) (v : List (List NestedCmd)) : (s.setPlan v).ident = s.ident := rfl
@[simp] theorem State.setPlan_sr (s : State) (v : List (List NestedCmd)) : (s.setPlan v).sr = s.sr := rfl
@[simp] theorem State.setPlan_cacheLen (s : State) (v : List (List NestedCmd)) : (s.setPlan v).cacheLen = s.cacheLen := rfl
@[simp] theorem State.setPlan_nsi (s : State) (v : List (List NestedCmd)) : (s.setPlan v).nsi = s.nsi := rfl
@[simp] theorem State.setPlan_si (s : State) (v : List (List NestedCmd)) : (s.setPlan v).si = s.si := rfl
@[simp] theorem State.setPlan_parse (s : State) (v : List (List NestedCmd)) : (s.setPlan v).parse = s.parse := rfl
@[simp] theorem State.setPlan_pipes (s : State) (v : List (List NestedCmd)) : (s.setPlan v).pipes = s.pipes := rfl
@[simp] theorem State.setPlan_jobs (s : State) (v : List (List NestedCmd)) : (s.setPlan v).jobs = s.jobs := rfl
@[simp] theorem State.setPlan_args (s : State) (v : List (List NestedCmd)) : (s.setPlan v).args = s.args := rfl
@[simp] theorem State.setPlan_res (s : State) (v : List (List NestedCmd)) : (s.setPlan v).res = s.res := rfl
@[simp] theorem State.setPlan_cache (s : State) (v : List (List NestedCmd)) : (s.setPlan v).cache = s.cache := rfl
@[simp] theorem State.setPlan_hbuf (s : State) (v : List (List NestedCmd)) : (s.setPlan v).hbuf = s.hbuf := rfl
@[simp] theorem State.setPlan_hal (s : State) (v : List (List NestedCmd)) : (s.setPlan v).hal = s.hal := rfl
@[simp] theorem State.setPlan_fg (s : State) (v : List (List NestedCmd)) : (s.setPlan v).fg = s.fg := rfl
@[simp] theorem State.setPlan_st (s : State) (v : List (List NestedCmd)) : (s.setPlan v).st = s.st := rfl
@[simp] theorem State.setPlan_bus (s : State) (v : List (List NestedCmd)) : (s.setPlan v).bus = s.bus := rfl
@[simp] theorem State.setPlan_inputs (s : State) (v : List (List NestedCmd)) : (s.setPlan v).inputs = s.inputs := rfl
@[simp] theorem State.setPlan_plan (s : State) (v : List (List NestedCmd)) : (s.setPlan v).plan = v := rfl
@[simp] theorem State.setPlan_trace (s : State) (v : List (List NestedCmd)) : (s.setPlan v).trace = s.trace := rfl
@[simp] theorem State.setPlan_free (s : State) (v : List (List NestedCmd)) : (s.setPlan v).free = s.free := rfl
@[simp] theorem State.setPlan_pipe (s : State) (v : List (List NestedCmd)) (q : Nat) : (s.setPlan v).pipe q = s.pipe q := rfl
@[simp] theorem State.setPlan_job (s : State) (v : List (List NestedCmd)) (q : Nat) : (s.setPlan v).job q = s.job q := rfl
@[simp] theorem State.setPlan_iface (s : State) (v : List (List NestedCmd)) (q : Nat) : (s.setPlan v).iface q = s.iface q := rfl
@[simp] theorem State.setPlan_halPipe (s : State) (v : List (List NestedCmd)) (q : Nat) : (s.setPlan v).halPipe q = s.halPipe q := rfl
@[simp] theorem State.setPlan_cacheByte (s : State) (v : List (List NestedCmd)) (k : Nat) : (s.setPlan v).cacheByte k = s.cacheByte k := rfl
@[simp] theorem State.setPlan_hostByte (s : State) (v : List (List NestedCmd)) (c k : Nat) : (s.setPlan v).hostByte c k = s.hostByte c k := rfl
@[simp] theorem State.setPlan_anyArmed (s : State) (v : List (List NestedCmd)) : (s.setPlan v).anyArmed = s.anyArmed := rfl

/-! ### `State.setTrace` -/

@[simp] theorem State.setTrace_cfg (s : State) (v : List Output) : (s.setTrace v).cfg = s.cfg := rfl
@[simp] theorem State.setTrace_tables (s : State) (v : List Output) : (s.setTrace v).tables = s.tables := rfl
@[simp] theorem State.setTrace_ds (s : State) (v : List Output) : (s.setTrace v).ds = s.ds := rfl
@[simp] theorem State.setTrace_ct (s : State) (v : List Output) : (s.setTrace v).ct = s.ct := rfl
@[simp] theorem State.setTrace_sp (s : State) (v : List Output) : (s.setTrace v).sp = s.sp := rfl
@[simp] theorem State.setTrace_flags (s : State) (v : List Output) : (s.setTrace v).flags = s.flags := rfl
@[simp] theorem State.setTrace_en (s : State) (v : List Output) : (s.setTrace v).en = s.en := rfl
@[simp] theorem State.setTrace_cnt (s : State) (v : List Output) : (s.setTrace v).cnt = s.cnt := rfl
@[simp] theorem State.setTrace_ident (s : State) (v : List Output) : (s.setTrace v).ident = s.ident := rfl
@[simp] theorem State.setTrace_sr (s : State) (v : List Output) : (s.setTrace v).sr = s.sr := rfl
@[simp] theorem State.setTrace_cacheLen (s : State) (v : List Output) : (s.setTrace v).cacheLen = s.cacheLen := rfl
@[simp] theorem State.setTrace_nsi (s : State) (v : List Output) : (s.setTrace v).nsi = s.nsi := rfl
@[simp] theorem State.setTrace_si (s : State) (v : List Output) : (s.setTrace v).si = s.si := rfl
@[simp] theorem State.setTrace_parse (s : State) (v : List Output) : (s.setTrace v).parse = s.parse := rfl
@[simp] theorem State.setTrace_pipes (s : State) (v : List Output) : (s.setTrace v).pipes = s.pipes := rfl
@[simp] theorem State.setTrace_jobs (s : State) (v : List Output) : (s.setTrace v).jobs = s.jobs := rfl
@[simp] theorem State.setTrace_args (s : State) (v : List Output) : (s.setTrace v).args = s.args := rfl
@[simp] theorem State.setTrace_res (s : State) (v : List Output) : (s.setTrace v).res = s.res := rfl
@[simp] theorem State.setTrace_cache (s : State) (v : List Output) : (s.setTrace v).cache = s.cache := rfl
@[simp] theorem State.setTrace_hbuf (s : State) (v : List Output) : (s.setTrace v).hbuf = s.hbuf := rfl
@[simp] theorem State.setTrace_hal (s : State) (v : List Output) : (s.setTrace v).hal = s.hal := rfl
@[simp] theorem State.setTrace_fg (s : State) (v : List Output) : (s.setTrace v).fg = s.fg := rfl
@[simp] theorem State.setTrace_st (s : State) (v : List Output) : (s.setTrace v).st = s.st := rfl
@[simp] theorem State.setTrace_bus (s : State) (v : List Output) : (s.setTrace v).bus = s.bus := rfl
@[simp] theorem State.setTrace_inputs (s : State) (v : List Output) : (s.setTrace v).inputs = s.inputs := rfl
@[simp] theorem State.setTrace_plan (s : State) (v : List Output) : (s.setTrace v).plan = s.plan := rfl
@[simp] theorem State.setTrace_trace (s : State) (v : List Output) : (s.setTrace v).trace = v := rfl
@[simp] theorem State.setTrace_free (s : State) (v : List Output) : (s.setTrace v).free = s.free := rfl
@[simp] theorem State.setTrace_pipe (s : State) (v : List Output) (q : Nat) : (s.setTrace v).pipe q = s.pipe q := rfl
@[simp] theorem State.setTrace_job (s : State) (v : List Output) (q : Nat) : (s.setTrace v).job q = s.job q := rfl
@[simp] theorem State.setTrace_iface (s : State) (v : List Output) (q : Nat) : (s.setTrace v).iface q = s.iface q := rfl
@[simp] theorem State.setTrace_halPipe (s : State) (v : List Output) (q : Nat) : (s.setTrace v).halPipe q = s.halPipe q := rfl
@[simp] theorem State.setTrace_cacheByte (s : State) (v : List Output) (k : Nat) : (s.setTrace v).cacheByte k = s.cacheByte k := rfl
@[simp] theorem State.setTrace_hostByte (s : State) (v : List Output) (c k : Nat) : (s.setTrace v).hostByte c k = s.hostByte c k := rfl
@[simp] theorem State.setTrace_anyArmed (s : State) (v : List Output) : (s.setTrace v).anyArmed = s.anyArmed := rfl

/-! ### `State.setFree` -/

@[simp] theorem State.setFree_cfg (s : State) (v : Nat) : (s.setFree v).cfg = s.cfg := rfl
@[simp] theorem State.setFree_tables (s : State) (v : Nat) : (s.setFree v).tables = s.tables := rfl
@[simp] theorem State.setFree_ds (s : State) (v : Nat) : (s.setFree v).ds = s.ds := rfl
@[simp] theorem State.setFree_ct (s : State) (v : Nat) : (s.setFree v).ct = s.ct := rfl
@[simp] theorem State.setFree_sp (s : State) (v : Nat) : (s.setFree v).sp = s.sp := rfl
@[simp] theorem State.setFree_flags (s : State) (v : Nat) : (s.setFree v).flags = s.flags := rfl
@[simp] theorem State.setFree_en (s : State) (v : Nat) : (s.setFree v).en = s.en := rfl
@[simp] theorem State.setFree_cnt (s : State) (v : Nat) : (s.setFree v).cnt = s.cnt := rfl
@[simp] theorem State.setFree_ident (s : State) (v : Nat) : (s.setFree v).ident = s.ident := rfl
@[simp] theorem State.setFree_sr (s : State) (v : Nat) : (s.setFree v).sr = s.sr := rfl
@[simp] theorem State.setFree_cacheLen (s : State) (v : Nat) : (s.setFree v).cacheLen = s.cacheLen := rfl
@[simp] theorem State.setFree_nsi (s : State) (v : Nat) : (s.setFree v).nsi = s.nsi := rfl
@[simp] theorem State.setFree_si (s : State) (v : Nat) : (s.setFree v).si = s.si := rfl
@[simp] theorem State.setFree_parse (s : State) (v : Nat) : (s.setFree v).parse = s.parse := rfl
@[simp] theorem State.setFree_pipes (s : State) (v : Nat) : (s.setFree v).pipes = s.pipes := rfl
@[simp] theorem State.setFree_jobs (s : State) (v : Nat) : (s.setFree v).jobs = s.jobs := rfl
@[simp] theorem State.setFree_args (s : State) (v : Nat) : (s.setFree v).args = s.args := rfl
@[simp] theorem State.setFree_res (s : State) (v : Nat) : (s.setFree v).res = s.res := rfl
@[simp] theorem State.setFree_cache (s : State) (v : Nat) : (s.setFree v).cache = s.cache := rfl
@[simp] theorem State.setFree_hbuf (s : State) (v : Nat) : (s.setFree v).hbuf = s.hbuf := rfl
@[simp] theorem State.setFree_hal (s : State) (v : Nat) : (s.setFree v).hal = s.hal := rfl
@[simp] theorem State.setFree_fg (s : State) (v : Nat) : (s.setFree v).fg = s.fg := rfl
@[simp] theorem State.setFree_st (s : State) (v : Nat) : (s.setFree v).st = s.st := rfl
@[simp] theorem State.setFree_bus (s : State) (v : Nat) : (s.setFree v).bus = s.bus := rfl
@[simp] theorem State.setFree_inputs (s : State) (v : Nat) : (s.setFree v).inputs = s.inputs := rfl
@[simp] theorem State.setFree_plan (s : State) (v : Nat) : (s.setFree v).plan = s.plan := rfl
@[simp] theorem State.setFree_trace (s : State) (v : Nat) : (s.setFree v).trace = s.trace := rfl
@[simp] theorem State.setFree_free (s : State) (v : Nat) : (s.setFree v).free = v := rfl
@[simp] theorem State.setFree_pipe (s : State) (v : Nat) (q : Nat) : (s.setFree v).pipe q = s.pipe q := rfl
@[simp] theorem State.setFree_job (s : State) (v : Nat) (q : Nat) : (s.setFree v).job q = s.job q := rfl
@[simp] theorem State.setFree_iface (s : State) (v : Nat) (q : Nat) : (s.setFree v).iface q = s.iface q := rfl
@[simp] theorem State.setFree_halPipe (s : State) (v : Nat) (q : Nat) : (s.setFree v).halPipe q = s.halPipe q := rfl
@[simp] theorem State.setFree_cacheByte (s : State) (v : Nat) (k : Nat) : (s.setFree v).cacheByte k = s.cacheByte k := rfl
@[simp] theorem State.setFree_hostByte (s : State) (v : Nat) (c k : Nat) : (s.setFree v).hostByte c k = s.hostByte c k := rfl
@[simp] theorem State.setFree_anyArmed (s : State) (v : Nat) : (s.setFree v).anyArmed = s.anyArmed := rfl

/-! ### `State.emit` -/

@[simp] theorem State.emit_cfg (s : State) (o : Output) : (s.emit o).cfg = s.cfg := rfl
@[simp] theorem State.emit_tables (s : State) (o : Output) : (s.emit o).tables = s.tables := rfl
@[simp] theorem State.emit_ds (s : State) (o : Output) : (s.emit o).ds = s.ds := rfl
@[simp] theorem State.emit_ct (s : State) (o : Output) : (s.emit o).ct = s.ct := rfl
@[simp] theorem State.emit_sp (s : State) (o : Output) : (s.emit o).sp = s.sp := rfl
@[simp] theorem State.emit_flags (s : State) (o : Output) : (s.emit o).flags = s.flags := rfl
@[simp] theorem State.emit_en (s : State) (o : Output) : (s.emit o).en = s.en := rfl
@[simp] theorem State.emit_cnt (s : State) (o : Output) : (s.emit o).cnt = s.cnt := rfl
@[simp] theorem State.emit_ident (s : State) (o : Output) : (s.emit o).ident = s.ident := rfl
@[simp] theorem State.emit_sr (s : State) (o : Output) : (s.emit o).sr = s.sr := rfl
@[simp] theorem State.emit_cacheLen (s : State) (o : Output) : (s.emit o).cacheLen = s.cacheLen := rfl
@[simp] theorem State.emit_nsi (s : State) (o : Output) : (s.emit o).nsi = s.nsi := rfl
@[simp] theorem State.emit_si (s : State) (o : Output) : (s.emit o).si = s.si := rfl
@[simp] theorem State.emit_parse (s : State) (o : Output) : (s.emit o).parse = s.parse := rfl
@[simp] theorem State.emit_pipes (s : State) (o : Output) : (s.emit o).pipes = s.pipes := rfl
@[simp] theorem State.emit_jobs (s : State) (o : Output) : (s.emit o).jobs = s.jobs := rfl
@[simp] theorem State.emit_args (s : State) (o : Output) : (s.emit o).args = s.args := rfl
@[simp] theorem State.emit_res (s : State) (o : Output) : (s.emit o).res = s.res := rfl
@[simp] theorem State.emit_cache (s : State) (o : Output) : (s.emit o).cache = s.cache := rfl
@[simp] theorem State.emit_hbuf (s : State) (o : Output) : (s.emit o).hbuf = s.hbuf := rfl
@[simp] theorem State.emit_hal (s : State) (o : Output) : (s.emit o).hal = s.hal := rfl
@[simp] theorem State.emit_fg (s : State) (o : Output) : (s.emit o).fg = s.fg := rfl
@[simp] theorem State.emit_st (s : State) (o : Output) : (s.emit o).st = s.st := rfl
@[simp] theorem State.emit_bus (s : State) (o : Output) : (s.emit o).bus = s.bus := rfl
@[simp] theorem State.emit_inputs (s : State) (o : Output) : (s.emit o).inputs = s.inputs := rfl
@[simp] theorem State.emit_plan (s : State) (o : Output) : (s.emit o).plan = s.plan := rfl
@[simp] theorem State.emit_trace (s : State) (o : Output) : (s.emit o).trace = o :: s.trace := rfl
@[simp] theorem State.emit_free (s : State) (o : Output) : (s.emit o).free = s.free := rfl
@[simp] theorem State.emit_pipe (s : State) (o : Output) (q : Nat) : (s.emit o).pipe q = s.pipe q := rfl
@[simp] theorem State.emit_job (s : State) (o : Output) (q : Nat) : (s.emit o).job q = s.job q := rfl
@[simp] theorem State.emit_iface (s : State) (o : Output) (q : Nat) : (s.emit o).iface q = s.iface q := rfl
@[simp] theorem State.emit_halPipe (s : State) (o : Output) (q : Nat) : (s.emit o).halPipe q = s.halPipe q := rfl
@[simp] theorem State.emit_cacheByte (s : State) (o : Output) (k : Nat) : (s.emit o).cacheByte k = s.cacheByte k := rfl
@[simp] theorem State.emit_hostByte (s : State) (o : Output) (c k : Nat) : (s.emit o).hostByte c k = s.hostByte c k := rfl
@[simp] theorem State.emit_anyArmed (s : State) (o : Output) : (s.emit o).anyArmed = s.anyArmed := rfl

/-! ### `State.push` -/

@[simp] theorem State.push_cfg (s : State) (ms : List Micro) : (s.push ms).cfg = s.cfg := rfl
@[simp] theorem State.push_tables (s : State) (ms : List Micro) : (s.push ms).tables = s.tables := rfl
@[simp] theorem State.push_ds (s : State) (ms : List Micro) : (s.push ms).ds = s.ds := rfl
@[simp] theorem State.push_ct (s : State) (ms : List Micro) : (s.push ms).ct = s.ct := rfl
@[simp] theorem State.push_sp (s : State) (ms : List Micro) : (s.push ms).sp = s.sp := rfl
@[simp] theorem State.push_flags (s : State) (ms : List Micro) : (s.push ms).flags = s.flags := rfl
@[simp] theorem State.push_en (s : State) (ms : List Micro) : (s.push ms).en = s.en := rfl
@[simp] theorem State.push_cnt (s : State) (ms : List Micro) : (s.push ms).cnt = s.cnt := rfl
@[simp] theorem State.push_ident (s : State) (ms : List Micro) : (s.push ms).ident = s.ident := rfl
@[simp] theorem State.push_sr (s : State) (ms : List Micro) : (s.push ms).sr = s.sr := rfl
@[simp] theorem State.push_cacheLen (s : State) (ms : List Micro) : (s.push ms).cacheLen = s.cacheLen := rfl
@[simp] theorem State.push_nsi (s : State) (ms : List Micro) : (s.push ms).nsi = s.nsi := rfl
@[simp] theorem State.push_si (s : State) (ms : List Micro) : (s.push ms).si = s.si := rfl
@[simp] theorem State.push_parse (s : State) (ms : List Micro) : (s.push ms).parse = s.parse := rfl
@[simp] theorem State.push_pipes (s : State) (ms : List Micro) : (s.push ms).pipes = s.pipes := rfl
@[simp] theorem State.push_jobs (s : State) (ms : List Micro) : (s.push ms).jobs = s.jobs := rfl
@[simp] theorem State.push_args (s : State) (ms : List Micro) : (s.push ms).args = s.args := rfl
@[simp] theorem State.push_res (s : State) (ms : List Micro) : (s.push ms).res = s.res := rfl
@[simp] theorem State.push_cache (s : State) (ms : List Micro) : (s.push ms).cache = s.cache := rfl
@[simp] theorem State.push_hbuf (s : State) (ms : List Micro) : (s.push ms).hbuf = s.hbuf := rfl
@[simp] theorem State.push_hal (s : State) (ms : List Micro) : (s.push ms).hal = s.hal := rfl
@[simp] theorem State.push_fg (s : State) (ms : List Micro) : (s.push ms).fg = ms ++ s.fg := rfl
@[simp] theorem State.push_st (s : State) (ms : List Micro) : (s.push ms).st = s.st := rfl
@[simp] theorem State.push_bus (s : State) (ms : List Micro) : (s.push ms).bus = s.bus := rfl
@[simp] theorem State.push_inputs (s : State) (ms : List Micro) : (s.push ms).inputs = s.inputs := rfl
@[simp] theorem State.push_plan (s : State) (ms : List Micro) : (s.push ms).plan = s.plan := rfl
@[simp] theorem State.push_trace (s : State) (ms : List Micro) : (s.push ms).trace = s.trace := rfl
@[simp] theorem State.push_free (s : State) (ms : List Micro) : (s.push ms).free = s.free := rfl
@[simp] theorem State.push_pipe (s : State) (ms : List Micro) (q : Nat) : (s.push ms).pipe q = s.pipe q := rfl
@[simp] theorem State.push_job (s : State) (ms : List Micro) (q : Nat) : (s.push ms).job q = s.job q := rfl
@[simp] theorem State.push_iface (s : State) (ms : List Micro) (q : Nat) : (s.push ms).iface q = s.iface q := rfl
@[simp] theorem State.push_halPipe (s : State) (ms : List Micro) (q : Nat) : (s.push ms).halPipe q = s.halPipe q := rfl
@[simp] theorem State.push_cacheByte (s : State) (ms : List Micro) (k : Nat) : (s.push ms).cacheByte k = s.cacheByte k := rfl
@[simp] theorem State.push_hostByte (s : State) (ms : List Micro) (c k : Nat) : (s.push ms).hostByte c k = s.hostByte c k := rfl
@[simp] theorem State.push_anyArmed (s : State) (ms : List Micro) : (s.push ms).anyArmed = s.anyArmed := rfl

/-! ### `State.ret` -/

@[simp] theorem State.ret_cfg (s : State) : (s.ret).cfg = s.cfg := rfl
@[simp] theorem State.ret_tables (s : State) : (s.ret).tables = s.tables := rfl
@[simp] theorem State.ret_ds (s : State) : (s.ret).ds = s.ds := rfl
@[simp] theorem State.ret_ct (s : State) : (s.ret).ct = s.ct := rfl
@[simp] theorem State.ret_sp (s : State) : (s.ret).sp = s.sp := rfl
@[simp] theorem State.ret_flags (s : State) : (s.ret).flags = s.flags := rfl
@[simp] theorem State.ret_en (s : State) : (s.ret).en = s.en := rfl
@[simp] theorem State.ret_cnt (s : State) : (s.ret).cnt = s.cnt := rfl
@[simp] theorem State.ret_ident (s : State) : (s.ret).ident = s.ident := rfl
@[simp] theorem State.ret_sr (s : State) : (s.ret).sr = s.sr := rfl
@[simp] theorem State.ret_cacheLen (s : State) : (s.ret).cacheLen = s.cacheLen := rfl
@[simp] theorem State.ret_nsi (s : State) : (s.ret).nsi = s.nsi := rfl
@[simp] theorem State.ret_si (s : State) : (s.ret).si = s.si := rfl
@[simp] theorem State.ret_parse (s : State) : (s.ret).parse = s.parse := rfl
@[simp] theorem State.ret_pipes (s : State) : (s.ret).pipes = s.pipes := rfl
@[simp] theorem State.ret_jobs (s : State) : (s.ret).jobs = s.jobs := rfl
@[simp] theorem State.ret_args (s : State) : (s.ret).args = s.args := rfl
@[simp] theorem State.ret_res (s : State) : (s.ret).res = s.res := rfl
@[simp] theorem State.ret_cache (s : State) : (s.ret).cache = s.cache := rfl
@[simp] theorem State.ret_hbuf (s : State) : (s.ret).hbuf = s.hbuf := rfl
@[simp] theorem State.ret_hal (s : State) : (s.ret).hal = s.hal := rfl
@[simp] theorem State.ret_fg (s : State) : (s.ret).fg = [] := rfl
@[simp] theorem State.ret_st (s : State) : (s.ret).st = s.st := rfl
@[simp] theorem State.ret_bus (s : State) : (s.ret).bus = s.bus := rfl
@[simp] theorem State.ret_inputs (s : State) : (s.ret).inputs = s.inputs := rfl
@[simp] theorem State.ret_plan (s : State) : (s.ret).plan = s.plan := rfl
@[simp] theorem State.ret_trace (s : State) : (s.ret).trace = s.trace := rfl
@[simp] theorem State.ret_free (s : State) : (s.ret).free = s.free := rfl
@[simp] theorem State.ret_pipe (s : State) (q : Nat) : (s.ret).pipe q = s.pipe q := rfl
@[simp] theorem State.ret_job (s : State) (q : Nat) : (s.ret).job q = s.job q := rfl
@[simp] theorem State.ret_iface (s : State) (q : Nat) : (s.ret).iface q = s.iface q := rfl
@[simp] theorem State.ret_halPipe (s : State) (q : Nat) : (s.ret).halPipe q = s.halPipe q := rfl
@[simp] theorem State.ret_cacheByte (s : State) (k : Nat) : (s.ret).cacheByte k = s.cacheByte k := rfl
@[simp] theorem State.ret_hostByte (s : State) (c k : Nat) : (s.ret).hostByte c k = s.hostByte c k := rfl
@[simp] theorem State.ret_anyArmed (s : State) : (s.ret).anyArmed = s.anyArmed := rfl

/-! ### `State.raise` -/

@[simp] theorem State.raise_cfg (s : State) (x : Micro → Bool) (v : Status) : (s.raise x v).cfg = s.cfg := rfl
@[simp] theorem State.raise_tables (s : State) (x : Micro → Bool) (v : Status) : (s.raise x v).tables = s.tables := rfl
@[simp] theorem State.raise_ds (s : State) (x : Micro → Bool) (v : Status) : (s.raise x v).ds = s.ds := rfl
@[simp] theorem State.raise_ct (s : State) (x : Micro → Bool) (v : Status) : (s.raise x v).ct = s.ct := rfl
@[simp] theorem State.raise_sp (s : State) (x : Micro → Bool) (v : Status) : (s.raise x v).sp = s.sp := rfl
@[simp] theorem State.raise_flags (s : State) (x : Micro → Bool) (v : Status) : (s.raise x v).flags = s.flags := rfl
@[simp] theorem State.raise_en (s : State) (x : Micro → Bool) (v : Status) : (s.raise x v).en = s.en := rfl
@[simp] theorem State.raise_cnt (s : State) (x : Micro → Bool) (v : Status) : (s.raise x v).cnt = s.cnt := rfl
@[simp] theorem State.raise_ident (s : State) (x : Micro → Bool) (v : Status) : (s.raise x v).ident = s.ident := rfl
@[simp] theorem State.raise_sr (s : State) (x : Micro → Bool) (v : Status) : (s.raise x v).sr = s.sr := rfl
@[simp] theorem State.raise_cacheLen (s : State) (x : Micro → Bool) (v : Status) : (s.raise x v).cacheLen = s.cacheLen := rfl
@[simp] theorem State.raise_nsi (s : State) (x : Micro → Bool) (v : Status) : (s.raise x v).nsi = s.nsi := rfl
@[simp] theorem State.raise_si (s : State) (x : Micro → Bool) (v : Status) : (s.raise x v).si = s.si := rfl
@[simp] theorem State.raise_parse (s : State) (x : Micro → Bool) (v : Status) : (s.raise x v).parse = s.parse := rfl
@[simp] theorem State.raise_pipes (s : State) (x : Micro → Bool) (v : Status) : (s.raise x v).pipes = s.pipes := rfl
@[simp] theorem State.raise_jobs (s : State) (x : Micro → Bool) (v : Status) : (s.raise x v).jobs = s.jobs := rfl
@[simp] theorem State.raise_args (s : State) (x : Micro → Bool) (v : Status) : (s.raise x v).args = s.args := rfl
@[simp] theorem State.raise_res (s : State) (x : Micro → Bool) (v : Status) : (s.raise x v).res = s.res := rfl
@[simp] theorem State.raise_cache (s : State) (x : Micro → Bool) (v : Status) : (s.raise x v).cache = s.cache := rfl
@[simp] theorem State.raise_hbuf (s : State) (x : Micro → Bool) (v : Status) : (s.raise x v).hbuf = s.hbuf := rfl
@[simp] theorem State.raise_hal (s : State) (x : Micro → Bool) (v : Status) : (s.raise x v).hal = s.hal := rfl
@[simp] theorem State.raise_fg (s : State) (x : Micro → Bool) (v : Status) : (s.raise x v).fg = s.fg.dropWhile fun m => !x m := rfl
@[simp] theorem State.raise_st (s : State) (x : Micro → Bool) (v : Status) : (s.raise x v).st = v := rfl
@[simp] theorem State.raise_bus (s : State) (x : Micro → Bool) (v : Status) : (s.raise x v).bus = s.bus := rfl
@[simp] theorem State.raise_inputs (s : State) (x : Micro → Bool) (v : Status) : (s.raise x v).inputs = s.inputs := rfl
@[simp] theorem State.raise_plan (s : State) (x : Micro → Bool) (v : Status) : (s.raise x v).plan = s.plan := rfl
@[simp] theorem State.raise_trace (s : State) (x : Micro → Bool) (v : Status) : (s.raise x v).trace = s.trace := rfl
@[simp] theorem State.raise_free (s : State) (x : Micro → Bool) (v : Status) : (s.raise x v).free = s.free := rfl
@[simp] theorem State.raise_pipe (s : State) (x : Micro → Bool) (v : Status) (q : Nat) : (s.raise x v).pipe q = s.pipe q := rfl
@[simp] theorem State.raise_job (s : State) (x : Micro → Bool) (v : Status) (q : Nat) : (s.raise x v).job q = s.job q := rfl
@[simp] theorem State.raise_iface (s : State) (x : Micro → Bool) (v : Status) (q : Nat) : (s.raise x v).iface q = s.iface q := rfl
@[simp] theorem State.raise_halPipe (s : State) (x : Micro → Bool) (v : Status) (q : Nat) : (s.raise x v).halPipe q = s.halPipe q := rfl
@[simp] theorem State.raise_cacheByte (s : State) (x : Micro → Bool) (v : Status) (k : Nat) : (s.raise x v).cacheByte k = s.cacheByte k := rfl
@[simp] theorem State.raise_hostByte (s : State) (x : Micro → Bool) (v : Status) (c k : Nat) : (s.raise x v).hostByte c k = s.hostByte c k := rfl
@[simp] theorem State.raise_anyArmed (s : State) (x : Micro → Bool) (v : Status) : (s.raise x v).anyArmed = s.anyArmed := rfl

/-! ### `State.setResBool` -/

@[simp] theorem State.setResBool_cfg (s : State) (b : Bool) : (s.setResBool b).cfg = s.cfg := rfl
@[simp] theorem State.setResBool_tables (s : State) (b : Bool) : (s.setResBool b).tables = s.tables := rfl
@[simp] theorem State.setResBool_ds (s : State) (b : Bool) : (s.setResBool b).ds = s.ds := rfl
@[simp] theorem State.setResBool_ct (s : State) (b : Bool) : (s.setResBool b).ct = s.ct := rfl
@[simp] theorem State.setResBool_sp (s : State) (b : Bool) : (s.setResBool b).sp = s.sp := rfl
@[simp] theorem State.setResBool_flags (s : State) (b : Bool) : (s.setResBool b).flags = s.flags := rfl
@[simp] theorem State.setResBool_en (s : State) (b : Bool) : (s.setResBool b).en = s.en := rfl
@[simp] theorem State.setResBool_cnt (s : State) (b : Bool) : (s.setResBool b).cnt = s.cnt := rfl
@[simp] theorem State.setResBool_ident (s : State) (b : Bool) : (s.setResBool b).ident = s.ident := rfl
@[simp] theorem State.setResBool_sr (s : State) (b : Bool) : (s.setResBool b).sr = s.sr := rfl
@[simp] theorem State.setResBool_cacheLen (s : State) (b : Bool) : (s.setResBool b).cacheLen = s.cacheLen := rfl
@[simp] theorem State.setResBool_nsi (s : State) (b : Bool) : (s.setResBool b).nsi = s.nsi := rfl
@[simp] theorem State.setResBool_si (s : State) (b : Bool) : (s.setResBool b).si = s.si := rfl
@[simp] theorem State.setResBool_parse (s : State) (b : Bool) : (s.setResBool b).parse = s.parse := rfl
@[simp] theorem State.setResBool_pipes (s : State) (b : Bool) : (s.setResBool b).pipes = s.pipes := rfl
@[simp] theorem State.setResBool_jobs (s : State) (b : Bool) : (s.setResBool b).jobs = s.jobs := rfl
@[simp] theorem State.setResBool_args (s : State) (b : Bool) : (s.setResBool b).args = s.args := rfl
@[simp] theorem State.setResBool_res (s : State) (b : Bool) : (s.setResBool b).res = { s.res with bool := b } := rfl
@[simp] theorem State.setResBool_cache (s : State) (b : Bool) : (s.setResBool b).cache = s.cache := rfl
@[simp] theorem State.setResBool_hbuf (s : State) (b : Bool) : (s.setResBool b).hbuf = s.hbuf := rfl
@[simp] theorem State.setResBool_hal (s : State) (b : Bool) : (s.setResBool b).hal = s.hal := rfl
@[simp] theorem State.setResBool_fg (s : State) (b : Bool) : (s.setResBool b).fg = s.fg := rfl
@[simp] theorem State.setResBool_st (s : State) (b : Bool) : (s.setResBool b).st = s.st := rfl
@[simp] theorem State.setResBool_bus (s : State) (b : Bool) : (s.setResBool b).bus = s.bus := rfl
@[simp] theorem State.setResBool_inputs (s : State) (b : Bool) : (s.setResBool b).inputs = s.inputs := rfl
@[simp] theorem State.setResBool_plan (s : State) (b : Bool) : (s.setResBool b).plan = s.plan := rfl
@[simp] theorem State.setResBool_trace (s : State) (b : Bool) : (s.setResBool b).trace = s.trace := rfl
@[simp] theorem State.setResBool_free (s : State) (b : Bool) : (s.setResBool b).free = s.free := rfl
@[simp] theorem State.setResBool_pipe (s : State) (b : Bool) (q : Nat) : (s.setResBool b).pipe q = s.pipe q := rfl
@[simp] theorem State.setResBool_job (s : State) (b : Bool) (q : Nat) : (s.setResBool b).job q = s.job q := rfl
@[simp] theorem State.setResBool_iface (s : State) (b : Bool) (q : Nat) : (s.setResBool b).iface q = s.iface q := rfl
@[simp] theorem State.setResBool_halPipe (s : State) (b : Bool) (q : Nat) : (s.setResBool b).halPipe q = s.halPipe q := rfl
@[simp] theorem State.setResBool_cacheByte (s : State) (b : Bool) (k : Nat) : (s.setResBool b).cacheByte k = s.cacheByte k := rfl
@[simp] theorem State.setResBool_hostByte (s : State) (b : Bool) (c k : Nat) : (s.setResBool b).hostByte c k = s.hostByte c k := rfl
@[simp] theorem State.setResBool_anyArmed (s : State) (b : Bool) : (s.setResBool b).anyArmed = s.anyArmed := rfl

/-! ### `State.setResVal` -/

@[simp] theorem State.setResVal_cfg (s : State) (v : Half) : (s.setResVal v).cfg = s.cfg := rfl
@[simp] theorem State.setResVal_tables (s : State) (v : Half) : (s.setResVal v).tables = s.tables := rfl
@[simp] theorem State.setResVal_ds (s : State) (v : Half) : (s.setResVal v).ds = s.ds := rfl
@[simp] theorem State.setResVal_ct (s : State) (v : Half) : (s.setResVal v).ct = s.ct := rfl
@[simp] theorem State.setResVal_sp (s : State) (v : Half) : (s.setResVal v).sp = s.sp := rfl
@[simp] theorem State.setResVal_flags (s : State) (v : Half) : (s.setResVal v).flags = s.flags := rfl
@[simp] theorem State.setResVal_en (s : State) (v : Half) : (s.setResVal v).en = s.en := rfl
@[simp] theorem State.setResVal_cnt (s : State) (v : Half) : (s.setResVal v).cnt = s.cnt := rfl
@[simp] theorem State.setResVal_ident (s : State) (v : Half) : (s.setResVal v).ident = s.ident := rfl
@[simp] theorem State.setResVal_sr (s : State) (v : Half) : (s.setResVal v).sr = s.sr := rfl
@[simp] theorem State.setResVal_cacheLen (s : State) (v : Half) : (s.setResVal v).cacheLen = s.cacheLen := rfl
@[simp] theorem State.setResVal_nsi (s : State) (v : Half) : (s.setResVal v).nsi = s.nsi := rfl
@[simp] theorem State.setResVal_si (s : State) (v : Half) : (s.setResVal v).si = s.si := rfl
@[simp] theorem State.setResVal_parse (s : State) (v : Half) : (s.setResVal v).parse = s.parse := rfl
@[simp] theorem State.setResVal_pipes (s : State) (v : Half) : (s.setResVal v).pipes = s.pipes := rfl
@[simp] theorem State.setResVal_jobs (s : State) (v : Half) : (s.setResVal v).jobs = s.jobs := rfl
@[simp] theorem State.setResVal_args (s : State) (v : Half) : (s.setResVal v).args = s.args := rfl
@[simp] theorem State.setResVal_res (s : State) (v : Half) : (s.setResVal v).res = { s.res with val := v } := rfl
@[simp] theorem State.setResVal_cache (s : State) (v : Half) : (s.setResVal v).cache = s.cache := rfl
@[simp] theorem State.setResVal_hbuf (s : State) (v : Half) : (s.setResVal v).hbuf = s.hbuf := rfl
@[simp] theorem State.setResVal_hal (s : State) (v : Half) : (s.setResVal v).hal = s.hal := rfl
@[simp] theorem State.setResVal_fg (s : State) (v : Half) : (s.setResVal v).fg = s.fg := rfl
@[simp] theorem State.setResVal_st (s : State) (v : Half) : (s.setResVal v).st = s.st := rfl
@[simp] theorem State.setResVal_bus (s : State) (v : Half) : (s.setResVal v).bus = s.bus := rfl
@[simp] theorem State.setResVal_inputs (s : State) (v : Half) : (s.setResVal v).inputs = s.inputs := rfl
@[simp] theorem State.setResVal_plan (s : State) (v : Half) : (s.setResVal v).plan = s.plan := rfl
@[simp] theorem State.setResVal_trace (s : State) (v : Half) : (s.setResVal v).trace = s.trace := rfl
@[simp] theorem State.setResVal_free (s : State) (v : Half) : (s.setResVal v).free = s.free := rfl
@[simp] theorem State.setResVal_pipe (s : State) (v : Half) (q : Nat) : (s.setResVal v).pipe q = s.pipe q := rfl
@[simp] theorem State.setResVal_job (s : State) (v : Half) (q : Nat) : (s.setResVal v).job q = s.job q := rfl
@[simp] theorem State.setResVal_iface (s : State) (v : Half) (q : Nat) : (s.setResVal v).iface q = s.iface q := rfl
@[simp] theorem State.setResVal_halPipe (s : State) (v : Half) (q : Nat) : (s.setResVal v).halPipe q = s.halPipe q := rfl
@[simp] theorem State.setResVal_cacheByte (s : State) (v : Half) (k : Nat) : (s.setResVal v).cacheByte k = s.cacheByte k := rfl
@[simp] theorem State.setResVal_hostByte (s : State) (v : Half) (c k : Nat) : (s.setResVal v).hostByte c k = s.hostByte c k := rfl
@[simp] theorem State.setResVal_anyArmed (s : State) (v : Half) : (s.setResVal v).anyArmed = s.anyArmed := rfl

/-! ### `State.setCacheByte` -/

@[simp] theorem State.setCacheByte_cfg (s : State) (off : Nat) (v : Byte) : (s.setCacheByte off v).cfg = s.cfg := rfl
@[simp] theorem State.setCacheByte_tables (s : State) (off : Nat) (v : Byte) : (s.setCacheByte off v).tables = s.tables := rfl
@[simp] theorem State.setCacheByte_ds (s : State) (off : Nat) (v : Byte) : (s.setCacheByte off v).ds = s.ds := rfl
@[simp] theorem State.setCacheByte_ct (s : State) (off : Nat) (v : Byte) : (s.setCacheByte off v).ct = s.ct := rfl
@[simp] theorem State.setCacheByte_sp (s : State) (off : Nat) (v : Byte) : (s.setCacheByte off v).sp = s.sp := rfl
@[simp] theorem State.setCacheByte_flags (s : State) (off : Nat) (v : Byte) : (s.setCacheByte off v).flags = s.flags := rfl
@[simp] theorem State.setCacheByte_en (s : State) (off : Nat) (v : Byte) : (s.setCacheByte off v).en = s.en := rfl
@[simp] theorem State.setCacheByte_cnt (s : State) (off : Nat) (v : Byte) : (s.setCacheByte off v).cnt = s.cnt := rfl
@[simp] theorem State.setCacheByte_ident (s : State) (off : Nat) (v : Byte) : (s.setCacheByte off v).ident = s.ident := rfl
@[simp] theorem State.setCacheByte_sr (s : State) (off : Nat) (v : Byte) : (s.setCacheByte off v).sr = s.sr := rfl
@[simp] theorem State.setCacheByte_cacheLen (s : State) (off : Nat) (v : Byte) : (s.setCacheByte off v).cacheLen = s.cacheLen := rfl
@[simp] theorem State.setCacheByte_nsi (s : State) (off : Nat) (v : Byte) : (s.setCacheByte off v).nsi = s.nsi := rfl
@[simp] theorem State.setCacheByte_si (s : State) (off : Nat) (v : Byte) : (s.setCacheByte off v).si = s.si := rfl
@[simp] theorem State.setCacheByte_parse (s : State) (off : Nat) (v : Byte) : (s.setCacheByte off v).parse = s.parse := rfl
@[simp] theorem State.setCacheByte_pipes (s : State) (off : Nat) (v : Byte) : (s.setCacheByte off v).pipes = s.pipes := rfl
@[simp] theorem State.setCacheByte_jobs (s : State) (off : Nat) (v : Byte) : (s.setCacheByte off v).jobs = s.jobs := rfl
@[simp] theorem State.setCacheByte_args (s : State) (off : Nat) (v : Byte) : (s.setCacheByte off v).args = s.args := rfl
@[simp] theorem State.setCacheByte_res (s : State) (off : Nat) (v : Byte) : (s.setCacheByte off v).res = s.res := rfl
@[simp] theorem State.setCacheByte_cache (s : State) (off : Nat) (v : Byte) : (s.setCacheByte off v).cache = Memory.write s.cache off v := rfl
@[simp] theorem State.setCacheByte_hbuf (s : State) (off : Nat) (v : Byte) : (s.setCacheByte off v).hbuf = s.hbuf := rfl
@[simp] theorem State.setCacheByte_hal (s : State) (off : Nat) (v : Byte) : (s.setCacheByte off v).hal = s.hal := rfl
@[simp] theorem State.setCacheByte_fg (s : State) (off : Nat) (v : Byte) : (s.setCacheByte off v).fg = s.fg := rfl
@[simp] theorem State.setCacheByte_st (s : State) (off : Nat) (v : Byte) : (s.setCacheByte off v).st = s.st := rfl
@[simp] theorem State.setCacheByte_bus (s : State) (off : Nat) (v : Byte) : (s.setCacheByte off v).bus = s.bus := rfl
@[simp] theorem State.setCacheByte_inputs (s : State) (off : Nat) (v : Byte) : (s.setCacheByte off v).inputs = s.inputs := rfl
@[simp] theorem State.setCacheByte_plan (s : State) (off : Nat) (v : Byte) : (s.setCacheByte off v).plan = s.plan := rfl
@[simp] theorem State.setCacheByte_trace (s : State) (off : Nat) (v : Byte) : (s.setCacheByte off v).trace = s.trace := rfl
@[simp] theorem State.setCacheByte_free (s : State) (off : Nat) (v : Byte) : (s.setCacheByte off v).free = s.free := rfl
@[simp] theorem State.setCacheByte_pipe (s : State) (off : Nat) (v : Byte) (q : Nat) : (s.setCacheByte off v).pipe q = s.pipe q := rfl
@[simp] theorem State.setCacheByte_job (s : State) (off : Nat) (v : Byte) (q : Nat) : (s.setCacheByte off v).job q = s.job q := rfl
@[simp] theorem State.setCacheByte_iface (s : State) (off : Nat) (v : Byte) (q : Nat) : (s.setCacheByte off v).iface q = s.iface q := rfl
@[simp] theorem State.setCacheByte_halPipe (s : State) (off : Nat) (v : Byte) (q : Nat) : (s.setCacheByte off v).halPipe q = s.halPipe q := rfl
@[simp] theorem State.setCacheByte_hostByte (s : State) (off : Nat) (v : Byte) (c k : Nat) : (s.setCacheByte off v).hostByte c k = s.hostByte c k := rfl
@[simp] theorem State.setCacheByte_anyArmed (s : State) (off : Nat) (v : Byte) : (s.setCacheByte off v).anyArmed = s.anyArmed := rfl

/-! ### `State.setHostByte` -/

@[simp] theorem State.setHostByte_cfg (s : State) (b off : Nat) (v : Byte) : (s.setHostByte b off v).cfg = s.cfg := rfl
@[simp] theorem State.setHostByte_tables (s : State) (b off : Nat) (v : Byte) : (s.setHostByte b off v).tables = s.tables := rfl
@[simp] theorem State.setHostByte_ds (s : State) (b off : Nat) (v : Byte) : (s.setHostByte b off v).ds = s.ds := rfl
@[simp] theorem State.setHostByte_ct (s : State) (b off : Nat) (v : Byte) : (s.setHostByte b off v).ct = s.ct := rfl
@[simp] theorem State.setHostByte_sp (s : State) (b off : Nat) (v : Byte) : (s.setHostByte b off v).sp = s.sp := rfl
@[simp] theorem State.setHostByte_flags (s : State) (b off : Nat) (v : Byte) : (s.setHostByte b off v).flags = s.flags := rfl
@[simp] theorem State.setHostByte_en (s : State) (b off : Nat) (v : Byte) : (s.setHostByte b off v).en = s.en := rfl
@[simp] theorem State.setHostByte_cnt (s : State) (b off : Nat) (v : Byte) : (s.setHostByte b off v).cnt = s.cnt := rfl
@[simp] theorem State.setHostByte_ident (s : State) (b off : Nat) (v : Byte) : (s.setHostByte b off v).ident = s.ident := rfl
@[simp] theorem State.setHostByte_sr (s : State) (b off : Nat) (v : Byte) : (s.setHostByte b off v).sr = s.sr := rfl
@[simp] theorem State.setHostByte_cacheLen (s : State) (b off : Nat) (v : Byte) : (s.setHostByte b off v).cacheLen = s.cacheLen := rfl
@[simp] theorem State.setHostByte_nsi (s : State) (b off : Nat) (v : Byte) : (s.setHostByte b off v).nsi = s.nsi := rfl
@[simp] theorem State.setHostByte_si (s : State) (b off : Nat) (v : Byte) : (s.setHostByte b off v).si = s.si := rfl
@[simp] theorem State.setHostByte_parse (s : State) (b off : Nat) (v : Byte) : (s.setHostByte b off v).parse = s.parse := rfl
@[simp] theorem State.setHostByte_pipes (s : State) (b off : Nat) (v : Byte) : (s.setHostByte b off v).pipes = s.pipes := rfl
@[simp] theorem State.setHostByte_jobs (s : State) (b off : Nat) (v : Byte) : (s.setHostByte b off v).jobs = s.jobs := rfl
@[simp] theorem State.setHostByte_args (s : State) (b off : Nat) (v : Byte) : (s.setHostByte b off v).args = s.args := rfl
@[simp] theorem State.setHostByte_res (s : State) (b off : Nat) (v : Byte) : (s.setHostByte b off v).res = s.res := rfl
@[simp] theorem State.setHostByte_cache (s : State) (b off : Nat) (v : Byte) : (s.setHostByte b off v).cache = s.cache := rfl
@[simp] theorem State.setHostByte_hbuf (s : State) (b off : Nat) (v : Byte) : (s.setHostByte b off v).hbuf = Memory.write s.hbuf (hostAddr b off) v := rfl
@[simp] theorem State.setHostByte_hal (s : State) (b off : Nat) (v : Byte) : (s.setHostByte b off v).hal = s.hal := rfl
@[simp] theorem State.setHostByte_fg (s : State) (b off : Nat) (v : Byte) : (s.setHostByte b off v).fg = s.fg := rfl
@[simp] theorem State.setHostByte_st (s : State) (b off : Nat) (v : Byte) : (s.setHostByte b off v).st = s.st := rfl
@[simp] theorem State.setHostByte_bus (s : State) (b off : Nat) (v : Byte) : (s.setHostByte b off v).bus = s.bus := rfl
@[simp] theorem State.setHostByte_inputs (s : State) (b off : Nat) (v : Byte) : (s.setHostByte b off v).inputs = s.inputs := rfl
@[simp] theorem State.setHostByte_plan (s : State) (b off : Nat) (v : Byte) : (s.setHostByte b off v).plan = s.plan := rfl
@[simp] theorem State.setHostByte_trace (s : State) (b off : Nat) (v : Byte) : (s.setHostByte b off v).trace = s.trace := rfl
@[simp] theorem State.setHostByte_free (s : State) (b off : Nat) (v : Byte) : (s.setHostByte b off v).free = s.free := rfl
@[simp] theorem State.setHostByte_pipe (s : State) (b off : Nat) (v : Byte) (q : Nat) : (s.setHostByte b off v).pipe q = s.pipe q := rfl
@[simp] theorem State.setHostByte_job (s : State) (b off : Nat) (v : Byte) (q : Nat) : (s.setHostByte b off v).job q = s.job q := rfl
@[simp] theorem State.setHostByte_iface (s : State) (b off : Nat) (v : Byte) (q : Nat) : (s.setHostByte b off v).iface q = s.iface q := rfl
@[simp] theorem State.setHostByte_halPipe (s : State) (b off : Nat) (v : Byte) (q : Nat) : (s.setHostByte b off v).halPipe q = s.halPipe q := rfl
@[simp] theorem State.setHostByte_cacheByte (s : State) (b off : Nat) (v : Byte) (k : Nat) : (s.setHostByte b off v).cacheByte k = s.cacheByte k := rfl
@[simp] theorem State.setHostByte_anyArmed (s : State) (b off : Nat) (v : Byte) : (s.setHostByte b off v).anyArmed = s.anyArmed := rfl

/-! ### `State.setPipe` -/

@[simp] theorem State.setPipe_cfg (s : State) (p : Nat) (r : Pipe) : (s.setPipe p r).cfg = s.cfg := rfl
@[simp] theorem State.setPipe_tables (s : State) (p : Nat) (r : Pipe) : (s.setPipe p r).tables = s.tables := rfl
@[simp] theorem State.setPipe_ds (s : State) (p : Nat) (r : Pipe) : (s.setPipe p r).ds = s.ds := rfl
@[simp] theorem State.setPipe_ct (s : State) (p : Nat) (r : Pipe) : (s.setPipe p r).ct = s.ct := rfl
@[simp] theorem State.setPipe_sp (s : State) (p : Nat) (r : Pipe) : (s.setPipe p r).sp = s.sp := rfl
@[simp] theorem State.setPipe_flags (s : State) (p : Nat) (r : Pipe) : (s.setPipe p r).flags = s.flags := rfl
@[simp] theorem State.setPipe_en (s : State) (p : Nat) (r : Pipe) : (s.setPipe p r).en = s.en := rfl
@[simp] theorem State.setPipe_cnt (s : State) (p : Nat) (r : Pipe) : (s.setPipe p r).cnt = s.cnt := rfl
@[simp] theorem State.setPipe_ident (s : State) (p : Nat) (r : Pipe) : (s.setPipe p r).ident = s.ident := rfl
@[simp] theorem State.setPipe_sr (s : State) (p : Nat) (r : Pipe) : (s.setPipe p r).sr = s.sr := rfl
@[simp] theorem State.setPipe_cacheLen (s : State) (p : Nat) (r : Pipe) : (s.setPipe p r).cacheLen = s.cacheLen := rfl
@[simp] theorem State.setPipe_nsi (s : State) (p : Nat) (r : Pipe) : (s.setPipe p r).nsi = s.nsi := rfl
@[simp] theorem State.setPipe_si (s : State) (p : Nat) (r : Pipe) : (s.setPipe p r).si = s.si := rfl
@[simp] theorem State.setPipe_parse (s : State) (p : Nat) (r : Pipe) : (s.setPipe p r).parse = s.parse := rfl
@[simp] theorem State.setPipe_pipes (s : State) (p : Nat) (r : Pipe) : (s.setPipe p r).pipes = tableSet Pipe.unallocated s.pipes p r := rfl
@[simp] theorem State.setPipe_jobs (s : State) (p : Nat) (r : Pipe) : (s.setPipe p r).jobs = s.jobs := rfl
@[simp] theorem State.setPipe_args (s : State) (p : Nat) (r : Pipe) : (s.setPipe p r).args = s.args := rfl
@[simp] theorem State.setPipe_res (s : State) (p : Nat) (r : Pipe) : (s.setPipe p r).res = s.res := rfl
@[simp] theorem State.setPipe_cache (s : State) (p : Nat) (r : Pipe) : (s.setPipe p r).cache = s.cache := rfl
@[simp] theorem State.setPipe_hbuf (s : State) (p : Nat) (r : Pipe) : (s.setPipe p r).hbuf = s.hbuf := rfl
@[simp] theorem State.setPipe_hal (s : State) (p : Nat) (r : Pipe) : (s.setPipe p r).hal = s.hal := rfl
@[simp] theorem State.setPipe_fg (s : State) (p : Nat) (r : Pipe) : (s.setPipe p r).fg = s.fg := rfl
@[simp] theorem State.setPipe_st (s : State) (p : Nat) (r : Pipe) : (s.setPipe p r).st = s.st := rfl
@[simp] theorem State.setPipe_bus (s : State) (p : Nat) (r : Pipe) : (s.setPipe p r).bus = s.bus := rfl
@[simp] theorem State.setPipe_inputs (s : State) (p : Nat) (r : Pipe) : (s.setPipe p r).inputs = s.inputs := rfl
@[simp] theorem State.setPipe_plan (s : State) (p : Nat) (r : Pipe) : (s.setPipe p r).plan = s.plan := rfl
@[simp] theorem State.setPipe_trace (s : State) (p : Nat) (r : Pipe) : (s.setPipe p r).trace = s.trace := rfl
@[simp] theorem State.setPipe_free (s : State) (p : Nat) (r : Pipe) : (s.setPipe p r).free = s.free := rfl
@[simp] theorem State.setPipe_job (s : State) (p : Nat) (r : Pipe) (q : Nat) : (s.setPipe p r).job q = s.job q := rfl
@[simp] theorem State.setPipe_iface (s : State) (p : Nat) (r : Pipe) (q : Nat) : (s.setPipe p r).iface q = s.iface q := rfl
@[simp] theorem State.setPipe_halPipe (s : State) (p : Nat) (r : Pipe) (q : Nat) : (s.setPipe p r).halPipe q = s.halPipe q := rfl
@[simp] theorem State.setPipe_cacheByte (s : State) (p : Nat) (r : Pipe) (k : Nat) : (s.setPipe p r).cacheByte k = s.cacheByte k := rfl
@[simp] theorem State.setPipe_hostByte (s : State) (p : Nat) (r : Pipe) (c k : Nat) : (s.setPipe p r).hostByte c k = s.hostByte c k := rfl
@[simp] theorem State.setPipe_anyArmed (s : State) (p : Nat) (r : Pipe) : (s.setPipe p r).anyArmed = s.anyArmed := rfl

/-! ### `State.setJob` -/

@[simp] theorem State.setJob_cfg (s : State) (p : Nat) (j : Job) : (s.setJob p j).cfg = s.cfg := rfl
@[simp] theorem State.setJob_tables (s : State) (p : Nat) (j : Job) : (s.setJob p j).tables = s.tables := rfl
@[simp] theorem State.setJob_ds (s : State) (p : Nat) (j : Job) : (s.setJob p j).ds = s.ds := rfl
@[simp] theorem State.setJob_ct (s : State) (p : Nat) (j : Job) : (s.setJob p j).ct = s.ct := rfl
@[simp] theorem State.setJob_sp (s : State) (p : Nat) (j : Job) : (s.setJob p j).sp = s.sp := rfl
@[simp] theorem State.setJob_flags (s : State) (p : Nat) (j : Job) : (s.setJob p j).flags = s.flags := rfl
@[simp] theorem State.setJob_en (s : State) (p : Nat) (j : Job) : (s.setJob p j).en = s.en := rfl
@[simp] theorem State.setJob_cnt (s : State) (p : Nat) (j : Job) : (s.setJob p j).cnt = s.cnt := rfl
@[simp] theorem State.setJob_ident (s : State) (p : Nat) (j : Job) : (s.setJob p j).ident = s.ident := rfl
@[simp] theorem State.setJob_sr (s : State) (p : Nat) (j : Job) : (s.setJob p j).sr = s.sr := rfl
@[simp] theorem State.setJob_cacheLen (s : State) (p : Nat) (j : Job) : (s.setJob p j).cacheLen = s.cacheLen := rfl
@[simp] theorem State.setJob_nsi (s : State) (p : Nat) (j : Job) : (s.setJob p j).nsi = s.nsi := rfl
@[simp] theorem State.setJob_si (s : State) (p : Nat) (j : Job) : (s.setJob p j).si = s.si := rfl
@[simp] theorem State.setJob_parse (s : State) (p : Nat) (j : Job) : (s.setJob p j).parse = s.parse := rfl
@[simp] theorem State.setJob_pipes (s : State) (p : Nat) (j : Job) : (s.setJob p j).pipes = s.pipes := rfl
@[simp] theorem State.setJob_jobs (s : State) (p : Nat) (j : Job) : (s.setJob p j).jobs = tableSet Job.unarmed s.jobs p j := rfl
@[simp] theorem State.setJob_args (s : State) (p : Nat) (j : Job) : (s.setJob p j).args = s.args := rfl
@[simp] theorem State.setJob_res (s : State) (p : Nat) (j : Job) : (s.setJob p j).res = s.res := rfl
@[simp] theorem State.setJob_cache (s : State) (p : Nat) (j : Job) : (s.setJob p j).cache = s.cache := rfl
@[simp] theorem State.setJob_hbuf (s : State) (p : Nat) (j : Job) : (s.setJob p j).hbuf = s.hbuf := rfl
@[simp] theorem State.setJob_hal (s : State) (p : Nat) (j : Job) : (s.setJob p j).hal = s.hal := rfl
@[simp] theorem State.setJob_fg (s : State) (p : Nat) (j : Job) : (s.setJob p j).fg = s.fg := rfl
@[simp] theorem State.setJob_st (s : State) (p : Nat) (j : Job) : (s.setJob p j).st = s.st := rfl
@[simp] theorem State.setJob_bus (s : State) (p : Nat) (j : Job) : (s.setJob p j).bus = s.bus := rfl
@[simp] theorem State.setJob_inputs (s : State) (p : Nat) (j : Job) : (s.setJob p j).inputs = s.inputs := rfl
@[simp] theorem State.setJob_plan (s : State) (p : Nat) (j : Job) : (s.setJob p j).plan = s.plan := rfl
@[simp] theorem State.setJob_trace (s : State) (p : Nat) (j : Job) : (s.setJob p j).trace = s.trace := rfl
@[simp] theorem State.setJob_free (s : State) (p : Nat) (j : Job) : (s.setJob p j).free = s.free := rfl
@[simp] theorem State.setJob_pipe (s : State) (p : Nat) (j : Job) (q : Nat) : (s.setJob p j).pipe q = s.pipe q := rfl
@[simp] theorem State.setJob_iface (s : State) (p : Nat) (j : Job) (q : Nat) : (s.setJob p j).iface q = s.iface q := rfl
@[simp] theorem State.setJob_halPipe (s : State) (p : Nat) (j : Job) (q : Nat) : (s.setJob p j).halPipe q = s.halPipe q := rfl
@[simp] theorem State.setJob_cacheByte (s : State) (p : Nat) (j : Job) (k : Nat) : (s.setJob p j).cacheByte k = s.cacheByte k := rfl
@[simp] theorem State.setJob_hostByte (s : State) (p : Nat) (j : Job) (c k : Nat) : (s.setJob p j).hostByte c k = s.hostByte c k := rfl

/-! ### `State.setIface` -/

@[simp] theorem State.setIface_cfg (s : State) (i : Nat) (f : Iface) : (s.setIface i f).cfg = s.cfg := rfl
@[simp] theorem State.setIface_tables (s : State) (i : Nat) (f : Iface) : (s.setIface i f).tables = s.tables := rfl
@[simp] theorem State.setIface_ds (s : State) (i : Nat) (f : Iface) : (s.setIface i f).ds = s.ds := rfl
@[simp] theorem State.setIface_ct (s : State) (i : Nat) (f : Iface) : (s.setIface i f).ct = s.ct := rfl
@[simp] theorem State.setIface_sp (s : State) (i : Nat) (f : Iface) : (s.setIface i f).sp = s.sp := rfl
@[simp] theorem State.setIface_flags (s : State) (i : Nat) (f : Iface) : (s.setIface i f).flags = s.flags := rfl
@[simp] theorem State.setIface_en (s : State) (i : Nat) (f : Iface) : (s.setIface i f).en = s.en := rfl
@[simp] theorem State.setIface_cnt (s : State) (i : Nat) (f : Iface) : (s.setIface i f).cnt = s.cnt := rfl
@[simp] theorem State.setIface_ident (s : State) (i : Nat) (f : Iface) : (s.setIface i f).ident = s.ident := rfl
@[simp] theorem State.setIface_sr (s : State) (i : Nat) (f : Iface) : (s.setIface i f).sr = s.sr := rfl
@[simp] theorem State.setIface_cacheLen (s : State) (i : Nat) (f : Iface) : (s.setIface i f).cacheLen = s.cacheLen := rfl
@[simp] theorem State.setIface_nsi (s : State) (i : Nat) (f : Iface) : (s.setIface i f).nsi = s.nsi := rfl
@[simp] theorem State.setIface_si (s : State) (i : Nat) (f : Iface) : (s.setIface i f).si = tableSet Iface.blank s.si i f := rfl
@[simp] theorem State.setIface_parse (s : State) (i : Nat) (f : Iface) : (s.setIface i f).parse = s.parse := rfl
@[simp] theorem State.setIface_pipes (s : State) (i : Nat) (f : Iface) : (s.setIface i f).pipes = s.pipes := rfl
@[simp] theorem State.setIface_jobs (s : State) (i : Nat) (f : Iface) : (s.setIface i f).jobs = s.jobs := rfl
@[simp] theorem State.setIface_args (s : State) (i : Nat) (f : Iface) : (s.setIface i f).args = s.args := rfl
@[simp] theorem State.setIface_res (s : State) (i : Nat) (f : Iface) : (s.setIface i f).res = s.res := rfl
@[simp] theorem State.setIface_cache (s : State) (i : Nat) (f : Iface) : (s.setIface i f).cache = s.cache := rfl
@[simp] theorem State.setIface_hbuf (s : State) (i : Nat) (f : Iface) : (s.setIface i f).hbuf = s.hbuf := rfl
@[simp] theorem State.setIface_hal (s : State) (i : Nat) (f : Iface) : (s.setIface i f).hal = s.hal := rfl
@[simp] theorem State.setIface_fg (s : State) (i : Nat) (f : Iface) : (s.setIface i f).fg = s.fg := rfl
@[simp] theorem State.setIface_st (s : State) (i : Nat) (f : Iface) : (s.setIface i f).st = s.st := rfl
@[simp] theorem State.setIface_bus (s : State) (i : Nat) (f : Iface) : (s.setIface i f).bus = s.bus := rfl
@[simp] theorem State.setIface_inputs (s : State) (i : Nat) (f : Iface) : (s.setIface i f).inputs = s.inputs := rfl
@[simp] theorem State.setIface_plan (s : State) (i : Nat) (f : Iface) : (s.setIface i f).plan = s.plan := rfl
@[simp] theorem State.setIface_trace (s : State) (i : Nat) (f : Iface) : (s.setIface i f).trace = s.trace := rfl
@[simp] theorem State.setIface_free (s : State) (i : Nat) (f : Iface) : (s.setIface i f).free = s.free := rfl
@[simp] theorem State.setIface_pipe (s : State) (i : Nat) (f : Iface) (q : Nat) : (s.setIface i f).pipe q = s.pipe q := rfl
@[simp] theorem State.setIface_job (s : State) (i : Nat) (f : Iface) (q : Nat) : (s.setIface i f).job q = s.job q := rfl
@[simp] theorem State.setIface_halPipe (s : State) (i : Nat) (f : Iface) (q : Nat) : (s.setIface i f).halPipe q = s.halPipe q := rfl
@[simp] theorem State.setIface_cacheByte (s : State) (i : Nat) (f : Iface) (k : Nat) : (s.setIface i f).cacheByte k = s.cacheByte k := rfl
@[simp] theorem State.setIface_hostByte (s : State) (i : Nat) (f : Iface) (c k : Nat) : (s.setIface i f).hostByte c k = s.hostByte c k := rfl
@[simp] theorem State.setIface_anyArmed (s : State) (i : Nat) (f : Iface) : (s.setIface i f).anyArmed = s.anyArmed := rfl

/-! ### `State.setHalPipe` -/

@[simp] theorem State.setHalPipe_cfg (s : State) (p : Nat) (h : HalPipe) : (s.setHalPipe p h).cfg = s.cfg := rfl
@[simp] theorem State.setHalPipe_tables (s : State) (p : Nat) (h : HalPipe) : (s.setHalPipe p h).tables = s.tables := rfl
@[simp] theorem State.setHalPipe_ds (s : State) (p : Nat) (h : HalPipe) : (s.setHalPipe p h).ds = s.ds := rfl
@[simp] theorem State.setHalPipe_ct (s : State) (p : Nat) (h : HalPipe) : (s.setHalPipe p h).ct = s.ct := rfl
@[simp] theorem State.setHalPipe_sp (s : State) (p : Nat) (h : HalPipe) : (s.setHalPipe p h).sp = s.sp := rfl
@[simp] theorem State.setHalPipe_flags (s : State) (p : Nat) (h : HalPipe) : (s.setHalPipe p h).flags = s.flags := rfl
@[simp] theorem State.setHalPipe_en (s : State) (p : Nat) (h : HalPipe) : (s.setHalPipe p h).en = s.en := rfl
@[simp] theorem State.setHalPipe_cnt (s : State) (p : Nat) (h : HalPipe) : (s.setHalPipe p h).cnt = s.cnt := rfl
@[simp] theorem State.setHalPipe_ident (s : State) (p : Nat) (h : HalPipe) : (s.setHalPipe p h).ident = s.ident := rfl
@[simp] theorem State.setHalPipe_sr (s : State) (p : Nat) (h : HalPipe) : (s.setHalPipe p h).sr = s.sr := rfl
@[simp] theorem State.setHalPipe_cacheLen (s : State) (p : Nat) (h : HalPipe) : (s.setHalPipe p h).cacheLen = s.cacheLen := rfl
@[simp] theorem State.setHalPipe_nsi (s : State) (p : Nat) (h : HalPipe) : (s.setHalPipe p h).nsi = s.nsi := rfl
@[simp] theorem State.setHalPipe_si (s : State) (p : Nat) (h : HalPipe) : (s.setHalPipe p h).si = s.si := rfl
@[simp] theorem State.setHalPipe_parse (s : State) (p : Nat) (h : HalPipe) : (s.setHalPipe p h).parse = s.parse := rfl
@[simp] theorem State.setHalPipe_pipes (s : State) (p : Nat) (h : HalPipe) : (s.setHalPipe p h).pipes = s.pipes := rfl
@[simp] theorem State.setHalPipe_jobs (s : State) (p : Nat) (h : HalPipe) : (s.setHalPipe p h).jobs = s.jobs := rfl
@[simp] theorem State.setHalPipe_args (s : State) (p : Nat) (h : HalPipe) : (s.setHalPipe p h).args = s.args := rfl
@[simp] theorem State.setHalPipe_res (s : State) (p : Nat) (h : HalPipe) : (s.setHalPipe p h).res = s.res := rfl
@[simp] theorem State.setHalPipe_cache (s : State) (p : Nat) (h : HalPipe) : (s.setHalPipe p h).cache = s.cache := rfl
@[simp] theorem State.setHalPipe_hbuf (s : State) (p : Nat) (h : HalPipe) : (s.setHalPipe p h).hbuf = s.hbuf := rfl
@[simp] theorem State.setHalPipe_hal (s : State) (p : Nat) (h : HalPipe) : (s.setHalPipe p h).hal = { s.hal with pipes := tableSet HalPipe.disabled s.hal.pipes p h } := rfl
@[simp] theorem State.setHalPipe_fg (s : State) (p : Nat) (h : HalPipe) : (s.setHalPipe p h).fg = s.fg := rfl
@[simp] theorem State.setHalPipe_st (s : State) (p : Nat) (h : HalPipe) : (s.setHalPipe p h).st = s.st := rfl
@[simp] theorem State.setHalPipe_bus (s : State) (p : Nat) (h : HalPipe) : (s.setHalPipe p h).bus = s.bus := rfl
@[simp] theorem State.setHalPipe_inputs (s : State) (p : Nat) (h : HalPipe) : (s.setHalPipe p h).inputs = s.inputs := rfl
@[simp] theorem State.setHalPipe_plan (s : State) (p : Nat) (h : HalPipe) : (s.setHalPipe p h).plan = s.plan := rfl
@[simp] theorem State.setHalPipe_trace (s : State) (p : Nat) (h : HalPipe) : (s.setHalPipe p h).trace = s.trace := rfl
@[simp] theorem State.setHalPipe_free (s : State) (p : Nat) (h : HalPipe) : (s.setHalPipe p h).free = s.free := rfl
@[simp] theorem State.setHalPipe_pipe (s : State) (p : Nat) (h : HalPipe) (q : Nat) : (s.setHalPipe p h).pipe q = s.pipe q := rfl
@[simp] theorem State.setHalPipe_job (s : State) (p : Nat) (h : HalPipe) (q : Nat) : (s.setHalPipe p h).job q = s.job q := rfl
@[simp] theorem State.setHalPipe_iface (s : State) (p : Nat) (h : HalPipe) (q : Nat) : (s.setHalPipe p h).iface q = s.iface q := rfl
@[simp] theorem State.setHalPipe_cacheByte (s : State) (p : Nat) (h : HalPipe) (k : Nat) : (s.setHalPipe p h).cacheByte k = s.cacheByte k := rfl
@[simp] theorem State.setHalPipe_hostByte (s : State) (p : Nat) (h : HalPipe) (c k : Nat) : (s.setHalPipe p h).hostByte c k = s.hostByte c k := rfl
@[simp] theorem State.setHalPipe_anyArmed (s : State) (p : Nat) (h : HalPipe) : (s.setHalPipe p h).anyArmed = s.anyArmed := rfl

/-! ### `State.sofPush` -/

@[simp] theorem State.sofPush_cfg (s : State) : (s.sofPush).cfg = s.cfg := rfl
@[simp] theorem State.sofPush_tables (s : State) : (s.sofPush).tables = s.tables := rfl
@[simp] theorem State.sofPush_ds (s : State) : (s.sofPush).ds = s.ds := rfl
@[simp] theorem State.sofPush_ct (s : State) : (s.sofPush).ct = s.ct := rfl
@[simp] theorem State.sofPush_sp (s : State) : (s.sofPush).sp = s.sp := rfl
@[simp] theorem State.sofPush_flags (s : State) : (s.sofPush).flags = s.flags := rfl
@[simp] theorem State.sofPush_en (s : State) : (s.sofPush).en = { s.en with sofieSaveFg := s.en.sofie, sofie := true } := rfl
@[simp] theorem State.sofPush_cnt (s : State) : (s.sofPush).cnt = s.cnt := rfl
@[simp] theorem State.sofPush_ident (s : State) : (s.sofPush).ident = s.ident := rfl
@[simp] theorem State.sofPush_sr (s : State) : (s.sofPush).sr = s.sr := rfl
@[simp] theorem State.sofPush_cacheLen (s : State) : (s.sofPush).cacheLen = s.cacheLen := rfl
@[simp] theorem State.sofPush_nsi (s : State) : (s.sofPush).nsi = s.nsi := rfl
@[simp] theorem State.sofPush_si (s : State) : (s.sofPush).si = s.si := rfl
@[simp] theorem State.sofPush_parse (s : State) : (s.sofPush).parse = s.parse := rfl
@[simp] theorem State.sofPush_pipes (s : State) : (s.sofPush).pipes = s.pipes := rfl
@[simp] theorem State.sofPush_jobs (s : State) : (s.sofPush).jobs = s.jobs := rfl
@[simp] theorem State.sofPush_args (s : State) : (s.sofPush).args = s.args := rfl
@[simp] theorem State.sofPush_res (s : State) : (s.sofPush).res = s.res := rfl
@[simp] theorem State.sofPush_cache (s : State) : (s.sofPush).cache = s.cache := rfl
@[simp] theorem State.sofPush_hbuf (s : State) : (s.sofPush).hbuf = s.hbuf := rfl
@[simp] theorem State.sofPush_hal (s : State) : (s.sofPush).hal = s.hal := rfl
@[simp] theorem State.sofPush_fg (s : State) : (s.sofPush).fg = s.fg := rfl
@[simp] theorem State.sofPush_st (s : State) : (s.sofPush).st = s.st := rfl
@[simp] theorem State.sofPush_bus (s : State) : (s.sofPush).bus = s.bus := rfl
@[simp] theorem State.sofPush_inputs (s : State) : (s.sofPush).inputs = s.inputs := rfl
@[simp] theorem State.sofPush_plan (s : State) : (s.sofPush).plan = s.plan := rfl
@[simp] theorem State.sofPush_trace (s : State) : (s.sofPush).trace = s.trace := rfl
@[simp] theorem State.sofPush_free (s : State) : (s.sofPush).free = s.free := rfl
@[simp] theorem State.sofPush_pipe (s : State) (q : Nat) : (s.sofPush).pipe q = s.pipe q := rfl
@[simp] theorem State.sofPush_job (s : State) (q : Nat) : (s.sofPush).job q = s.job q := rfl
@[simp] theorem State.sofPush_iface (s : State) (q : Nat) : (s.sofPush).iface q = s.iface q := rfl
@[simp] theorem State.sofPush_halPipe (s : State) (q : Nat) : (s.sofPush).halPipe q = s.halPipe q := rfl
@[simp] theorem State.sofPush_cacheByte (s : State) (k : Nat) : (s.sofPush).cacheByte k = s.cacheByte k := rfl
@[simp] theorem State.sofPush_hostByte (s : State) (c k : Nat) : (s.sofPush).hostByte c k = s.hostByte c k := rfl
@[simp] theorem State.sofPush_anyArmed (s : State) : (s.sofPush).anyArmed = s.anyArmed := rfl

/-! ### `State.sofPop` -/

@[simp] theorem State.sofPop_cfg (s : State) : (s.sofPop).cfg = s.cfg := rfl
@[simp] theorem State.sofPop_tables (s : State) : (s.sofPop).tables = s.tables := rfl
@[simp] theorem State.sofPop_ds (s : State) : (s.sofPop).ds = s.ds := rfl
@[simp] theorem State.sofPop_ct (s : State) : (s.sofPop).ct = s.ct := rfl
@[simp] theorem State.sofPop_sp (s : State) : (s.sofPop).sp = s.sp := rfl
@[simp] theorem State.sofPop_flags (s : State) : (s.sofPop).flags = s.flags := rfl
@[simp] theorem State.sofPop_en (s : State) : (s.sofPop).en = { s.en with sofie := s.en.sofieSaveFg } := rfl
@[simp] theorem State.sofPop_cnt (s : State) : (s.sofPop).cnt = s.cnt := rfl
@[simp] theorem State.sofPop_ident (s : State) : (s.sofPop).ident = s.ident := rfl
@[simp] theorem State.sofPop_sr (s : State) : (s.sofPop).sr = s.sr := rfl
@[simp] theorem State.sofPop_cacheLen (s : State) : (s.sofPop).cacheLen = s.cacheLen := rfl
@[simp] theorem State.sofPop_nsi (s : State) : (s.sofPop).nsi = s.nsi := rfl
@[simp] theorem State.sofPop_si (s : State) : (s.sofPop).si = s.si := rfl
@[simp] theorem State.sofPop_parse (s : State) : (s.sofPop).parse = s.parse := rfl
@[simp] theorem State.sofPop_pipes (s : State) : (s.sofPop).pipes = s.pipes := rfl
@[simp] theorem State.sofPop_jobs (s : State) : (s.sofPop).jobs = s.jobs := rfl
@[simp] theorem State.sofPop_args (s : State) : (s.sofPop).args = s.args := rfl
@[simp] theorem State.sofPop_res (s : State) : (s.sofPop).res = s.res := rfl
@[simp] theorem State.sofPop_cache (s : State) : (s.sofPop).cache = s.cache := rfl
@[simp] theorem State.sofPop_hbuf (s : State) : (s.sofPop).hbuf = s.hbuf := rfl
@[simp] theorem State.sofPop_hal (s : State) : (s.sofPop).hal = s.hal := rfl
@[simp] theorem State.sofPop_fg (s : State) : (s.sofPop).fg = s.fg := rfl
@[simp] theorem State.sofPop_st (s : State) : (s.sofPop).st = s.st := rfl
@[simp] theorem State.sofPop_bus (s : State) : (s.sofPop).bus = s.bus := rfl
@[simp] theorem State.sofPop_inputs (s : State) : (s.sofPop).inputs = s.inputs := rfl
@[simp] theorem State.sofPop_plan (s : State) : (s.sofPop).plan = s.plan := rfl
@[simp] theorem State.sofPop_trace (s : State) : (s.sofPop).trace = s.trace := rfl
@[simp] theorem State.sofPop_free (s : State) : (s.sofPop).free = s.free := rfl
@[simp] theorem State.sofPop_pipe (s : State) (q : Nat) : (s.sofPop).pipe q = s.pipe q := rfl
@[simp] theorem State.sofPop_job (s : State) (q : Nat) : (s.sofPop).job q = s.job q := rfl
@[simp] theorem State.sofPop_iface (s : State) (q : Nat) : (s.sofPop).iface q = s.iface q := rfl
@[simp] theorem State.sofPop_halPipe (s : State) (q : Nat) : (s.sofPop).halPipe q = s.halPipe q := rfl
@[simp] theorem State.sofPop_cacheByte (s : State) (k : Nat) : (s.sofPop).cacheByte k = s.cacheByte k := rfl
@[simp] theorem State.sofPop_hostByte (s : State) (c k : Nat) : (s.sofPop).hostByte c k = s.hostByte c k := rfl
@[simp] theorem State.sofPop_anyArmed (s : State) : (s.sofPop).anyArmed = s.anyArmed := rfl

/-! ### `State.advance` -/

@[simp] theorem State.advance_cfg (s : State) (d : DevState) : (s.advance d).cfg = s.cfg := rfl
@[simp] theorem State.advance_tables (s : State) (d : DevState) : (s.advance d).tables = s.tables := rfl
@[simp] theorem State.advance_ds (s : State) (d : DevState) : (s.advance d).ds = if s.flags.emerg then s.ds else d := rfl
@[simp] theorem State.advance_ct (s : State) (d : DevState) : (s.advance d).ct = s.ct := rfl
@[simp] theorem State.advance_sp (s : State) (d : DevState) : (s.advance d).sp = s.sp := rfl
@[simp] theorem State.advance_flags (s : State) (d : DevState) : (s.advance d).flags = s.flags := rfl
@[simp] theorem State.advance_en (s : State) (d : DevState) : (s.advance d).en = s.en := rfl
@[simp] theorem State.advance_cnt (s : State) (d : DevState) : (s.advance d).cnt = s.cnt := rfl
@[simp] theorem State.advance_ident (s : State) (d : DevState) : (s.advance d).ident = s.ident := rfl
@[simp] theorem State.advance_sr (s : State) (d : DevState) : (s.advance d).sr = s.sr := rfl
@[simp] theorem State.advance_cacheLen (s : State) (d : DevState) : (s.advance d).cacheLen = s.cacheLen := rfl
@[simp] theorem State.advance_nsi (s : State) (d : DevState) : (s.advance d).nsi = s.nsi := rfl
@[simp] theorem State.advance_si (s : State) (d : DevState) : (s.advance d).si = s.si := rfl
@[simp] theorem State.advance_parse (s : State) (d : DevState) : (s.advance d).parse = s.parse := rfl
@[simp] theorem State.advance_pipes (s : State) (d : DevState) : (s.advance d).pipes = s.pipes := rfl
@[simp] theorem State.advance_jobs (s : State) (d : DevState) : (s.advance d).jobs = s.jobs := rfl
@[simp] theorem State.advance_args (s : State) (d : DevState) : (s.advance d).args = s.args := rfl
@[simp] theorem State.advance_res (s : State) (d : DevState) : (s.advance d).res = s.res := rfl
@[simp] theorem State.advance_cache (s : State) (d : DevState) : (s.advance d).cache = s.cache := rfl
@[simp] theorem State.advance_hbuf (s : State) (d : DevState) : (s.advance d).hbuf = s.hbuf := rfl
@[simp] theorem State.advance_hal (s : State) (d : DevState) : (s.advance d).hal = s.hal := rfl
@[simp] theorem State.advance_fg (s : State) (d : DevState) : (s.advance d).fg = s.fg := rfl
@[simp] theorem State.advance_st (s : State) (d : DevState) : (s.advance d).st = s.st := rfl
@[simp] theorem State.advance_bus (s : State) (d : DevState) : (s.advance d).bus = s.bus := rfl
@[simp] theorem State.advance_inputs (s : State) (d : DevState) : (s.advance d).inputs = s.inputs := rfl
@[simp] theorem State.advance_plan (s : State) (d : DevState) : (s.advance d).plan = s.plan := rfl
@[simp] theorem State.advance_trace (s : State) (d : DevState) : (s.advance d).trace = s.trace := rfl
@[simp] theorem State.advance_free (s : State) (d : DevState) : (s.advance d).free = s.free := rfl
@[simp] theorem State.advance_pipe (s : State) (d : DevState) (q : Nat) : (s.advance d).pipe q = s.pipe q := rfl
@[simp] theorem State.advance_job (s : State) (d : DevState) (q : Nat) : (s.advance d).job q = s.job q := rfl
@[simp] theorem State.advance_iface (s : State) (d : DevState) (q : Nat) : (s.advance d).iface q = s.iface q := rfl
@[simp] theorem State.advance_halPipe (s : State) (d : DevState) (q : Nat) : (s.advance d).halPipe q = s.halPipe q := rfl
@[simp] theorem State.advance_cacheByte (s : State) (d : DevState) (k : Nat) : (s.advance d).cacheByte k = s.cacheByte k := rfl
@[simp] theorem State.advance_hostByte (s : State) (d : DevState) (c k : Nat) : (s.advance d).hostByte c k = s.hostByte c k := rfl
@[simp] theorem State.advance_anyArmed (s : State) (d : DevState) : (s.advance d).anyArmed = s.anyArmed := rfl

/-! ### `State.setSofgen` -/

@[simp] theorem State.setSofgen_cfg (b : Bool) (s : State) : (s.setSofgen b).cfg = s.cfg := rfl
@[simp] theorem State.setSofgen_tables (b : Bool) (s : State) : (s.setSofgen b).tables = s.tables := rfl
@[simp] theorem State.setSofgen_ds (b : Bool) (s : State) : (s.setSofgen b).ds = s.ds := rfl
@[simp] theorem State.setSofgen_ct (b : Bool) (s : State) : (s.setSofgen b).ct = s.ct := rfl
@[simp] theorem State.setSofgen_sp (b : Bool) (s : State) : (s.setSofgen b).sp = s.sp := rfl
@[simp] theorem State.setSofgen_flags (b : Bool) (s : State) : (s.setSofgen b).flags = s.flags := rfl
@[simp] theorem State.setSofgen_en (b : Bool) (s : State) : (s.setSofgen b).en = { s.en with sofgen := b } := rfl
@[simp] theorem State.setSofgen_cnt (b : Bool) (s : State) : (s.setSofgen b).cnt = s.cnt := rfl
@[simp] theorem State.setSofgen_ident (b : Bool) (s : State) : (s.setSofgen b).ident = s.ident := rfl
@[simp] theorem State.setSofgen_sr (b : Bool) (s : State) : (s.setSofgen b).sr = s.sr := rfl
@[simp] theorem State.setSofgen_cacheLen (b : Bool) (s : State) : (s.setSofgen b).cacheLen = s.cacheLen := rfl
@[simp] theorem State.setSofgen_nsi (b : Bool) (s : State) : (s.setSofgen b).nsi = s.nsi := rfl
@[simp] theorem State.setSofgen_si (b : Bool) (s : State) : (s.setSofgen b).si = s.si := rfl
@[simp] theorem State.setSofgen_parse (b : Bool) (s : State) : (s.setSofgen b).parse = s.parse := rfl
@[simp] theorem State.setSofgen_pipes (b : Bool) (s : State) : (s.setSofgen b).pipes = s.pipes := rfl
@[simp] theorem State.setSofgen_pipe (b : Bool) (s : State) (q : Nat) : (s.setSofgen b).pipe q = s.pipe q := rfl
@[simp] theorem State.setSofgen_jobs (b : Bool) (s : State) : (s.setSofgen b).jobs = s.jobs := rfl
@[simp] theorem State.setSofgen_args (b : Bool) (s : State) : (s.setSofgen b).args = s.args := rfl
@[simp] theorem State.setSofgen_res (b : Bool) (s : State) : (s.setSofgen b).res = s.res := rfl
@[simp] theorem State.setSofgen_cache (b : Bool) (s : State) : (s.setSofgen b).cache = s.cache := rfl
@[simp] theorem State.setSofgen_hbuf (b : Bool) (s : State) : (s.setSofgen b).hbuf = s.hbuf := rfl
@[simp] theorem State.setSofgen_hal (b : Bool) (s : State) : (s.setSofgen b).hal = { s.hal with sof := s.hal.sof && b } := rfl
@[simp] theorem State.setSofgen_fg (b : Bool) (s : State) : (s.setSofgen b).fg = s.fg := rfl
@[simp] theorem State.setSofgen_st (b : Bool) (s : State) : (s.setSofgen b).st = s.st := rfl
@[simp] theorem State.setSofgen_bus (b : Bool) (s : State) : (s.setSofgen b).bus = s.bus := rfl
@[simp] theorem State.setSofgen_inputs (b : Bool) (s : State) : (s.setSofgen b).inputs = s.inputs := rfl
@[simp] theorem State.setSofgen_plan (b : Bool) (s : State) : (s.setSofgen b).plan = s.plan := rfl
@[simp] theorem State.setSofgen_trace (b : Bool) (s : State) : (s.setSofgen b).trace = s.trace := rfl
@[simp] theorem State.setSofgen_free (b : Bool) (s : State) : (s.setSofgen b).free = s.free := rfl
@[simp] theorem State.setSofgen_job (b : Bool) (s : State) (q : Nat) : (s.setSofgen b).job q = s.job q := rfl
@[simp] theorem State.setSofgen_iface (b : Bool) (s : State) (q : Nat) : (s.setSofgen b).iface q = s.iface q := rfl
@[simp] theorem State.setSofgen_halPipe (b : Bool) (s : State) (q : Nat) : (s.setSofgen b).halPipe q = s.halPipe q := rfl
@[simp] theorem State.setSofgen_cacheByte (b : Bool) (s : State) (k : Nat) : (s.setSofgen b).cacheByte k = s.cacheByte k := rfl
@[simp] theorem State.setSofgen_hostByte (b : Bool) (s : State) (c k : Nat) : (s.setSofgen b).hostByte c k = s.hostByte c k := rfl
@[simp] theorem State.setSofgen_anyArmed (b : Bool) (s : State) : (s.setSofgen b).anyArmed = s.anyArmed := rfl

/-! ### `State.clearContext` -/

@[simp] theorem State.clearContext_cfg (s : State) : (s.clearContext).cfg = s.cfg := rfl
@[simp] theorem State.clearContext_tables (s : State) : (s.clearContext).tables = s.tables := rfl
@[simp] theorem State.clearContext_ds (s : State) : (s.clearContext).ds = s.ds := rfl
@[simp] theorem State.clearContext_ct (s : State) : (s.clearContext).ct = s.ct := rfl
@[simp] theorem State.clearContext_sp (s : State) : (s.clearContext).sp = s.sp := rfl
@[simp] theorem State.clearContext_flags (s : State) : (s.clearContext).flags = { s.flags with emerg := false, rearm := false, suspReq := false, resumeReq := false, wakeEvt := false } := rfl
@[simp] theorem State.clearContext_en (s : State) : (s.clearContext).en = s.en := rfl
@[simp] theorem State.clearContext_cnt (s : State) : (s.clearContext).cnt = { s.cnt with errcnt := 0, sofcnt := 0 } := rfl
@[simp] theorem State.clearContext_ident (s : State) : (s.clearContext).ident = ⟨0#16, 0#16, 0#7, s.cfg.ctrlMpsInit⟩ := rfl
@[simp] theorem State.clearContext_sr (s : State) : (s.clearContext).sr = s.sr := rfl
@[simp] theorem State.clearContext_cacheLen (s : State) : (s.clearContext).cacheLen = 0 := rfl
@[simp] theorem State.clearContext_nsi (s : State) : (s.clearContext).nsi = 0 := rfl
@[simp] theorem State.clearContext_si (s : State) : (s.clearContext).si = s.si := rfl
@[simp] theorem State.clearContext_parse (s : State) : (s.clearContext).parse = s.parse := rfl
@[simp] theorem State.clearContext_pipes (s : State) : (s.clearContext).pipes = s.pipes.map Pipe.freed := rfl
@[simp] theorem State.clearContext_jobs (s : State) : (s.clearContext).jobs = s.jobs := rfl
@[simp] theorem State.clearContext_args (s : State) : (s.clearContext).args = s.args := rfl
@[simp] theorem State.clearContext_res (s : State) : (s.clearContext).res = s.res := rfl
@[simp] theorem State.clearContext_cache (s : State) : (s.clearContext).cache = s.cache := rfl
@[simp] theorem State.clearContext_hbuf (s : State) : (s.clearContext).hbuf = s.hbuf := rfl
@[simp] theorem State.clearContext_hal (s : State) : (s.clearContext).hal = s.hal := rfl
@[simp] theorem State.clearContext_fg (s : State) : (s.clearContext).fg = s.fg := rfl
@[simp] theorem State.clearContext_st (s : State) : (s.clearContext).st = s.st := rfl
@[simp] theorem State.clearContext_bus (s : State) : (s.clearContext).bus = s.bus := rfl
@[simp] theorem State.clearContext_inputs (s : State) : (s.clearContext).inputs = s.inputs := rfl
@[simp] theorem State.clearContext_plan (s : State) : (s.clearContext).plan = s.plan := rfl
@[simp] theorem State.clearContext_trace (s : State) : (s.clearContext).trace = s.trace := rfl
@[simp] theorem State.clearContext_free (s : State) : (s.clearContext).free = s.free := rfl
@[simp] theorem State.clearContext_job (s : State) (q : Nat) : (s.clearContext).job q = s.job q := rfl
@[simp] theorem State.clearContext_iface (s : State) (q : Nat) : (s.clearContext).iface q = s.iface q := rfl
@[simp] theorem State.clearContext_halPipe (s : State) (q : Nat) : (s.clearContext).halPipe q = s.halPipe q := rfl
@[simp] theorem State.clearContext_cacheByte (s : State) (k : Nat) : (s.clearContext).cacheByte k = s.cacheByte k := rfl
@[simp] theorem State.clearContext_hostByte (s : State) (c k : Nat) : (s.clearContext).hostByte c k = s.hostByte c k := rfl
@[simp] theorem State.clearContext_anyArmed (s : State) : (s.clearContext).anyArmed = s.anyArmed := rfl

end Sys2Proof.Machine
end

