-- ==== Sys2Proof/Laws/Memory.lean ====
section
/-! SUPPORT. The laws of memory: every write keeps the canonical form, a byte read back is the byte written, and every
other byte is as before. -/

namespace Sys2Proof.Machine

-- Elaborated one after another: hundreds of theorems at once exhaust the threads the memory limit allows.
set_option Elab.async false

/-- The cells of a canonical memory that come after an address at or below the first one are all above it. -/
theorem Memory.read_of_all_gt (m : List Host.Cell) (a : Nat) (h : m.all (fun c => decide (a < c.1)) = true) :
    Memory.read m a = unlisted := by
  induction m with
  | nil => rfl
  | cons c rest ih =>
    obtain ⟨k, b⟩ := c
    simp only [List.all_cons, Bool.and_eq_true, decide_eq_true_eq] at h
    have hk : k ≠ a := by omega
    simpa [Memory.read, hk] using ih h.2

/-- The form of a canonical memory with a first cell. -/
theorem Memory.wf_cons (k : Nat) (b : Byte) (rest : List Host.Cell) :
    Memory.wf ((k, b) :: rest) = true ↔
      b ≠ unlisted ∧ rest.all (fun c => decide (k < c.1)) = true ∧ Memory.wf rest = true := by
  simp [Memory.wf, and_assoc]

/-- A write lists no address below all those it had and the one written. -/
theorem Memory.write_all_gt (m : List Host.Cell) (a x : Nat) (v : Byte) (hx : x < a)
    (h : m.all (fun c => decide (x < c.1)) = true) :
    (Memory.write m a v).all (fun c => decide (x < c.1)) = true := by
  induction m with
  | nil => simp only [Memory.write]; split <;> simp [hx]
  | cons c rest ih =>
    obtain ⟨k, b⟩ := c
    simp only [List.all_cons, Bool.and_eq_true, decide_eq_true_eq] at h
    simp only [Memory.write]
    split
    · split <;> simp [hx, h]
    · split
      · split
        · exact h.2
        · simp only [List.all_cons, Bool.and_eq_true, decide_eq_true_eq]
          exact ⟨hx, h.2⟩
      · simp only [List.all_cons, Bool.and_eq_true, decide_eq_true_eq]
        exact ⟨h.1, ih h.2⟩

/-- A write keeps the canonical form. -/
theorem Memory.write_wf (m : List Host.Cell) (a : Nat) (v : Byte) (h : Memory.wf m = true) :
    Memory.wf (Memory.write m a v) = true := by
  induction m with
  | nil =>
    simp only [Memory.write]
    split
    · rfl
    · rename_i hv
      simp [Memory.wf, hv]
  | cons c rest ih =>
    obtain ⟨k, b⟩ := c
    have hw := (Memory.wf_cons k b rest).mp h
    simp only [Memory.write]
    split
    · rename_i hlt
      split
      · exact h
      · rename_i hv
        refine (Memory.wf_cons _ _ _).mpr ⟨hv, ?_, h⟩
        simp only [List.all_cons, Bool.and_eq_true, decide_eq_true_eq]
        refine ⟨hlt, ?_⟩
        have := hw.2.1
        simp only [List.all_eq_true, decide_eq_true_eq] at this ⊢
        intro c hc; have := this c hc; omega
    · split
      · split
        · exact hw.2.2
        · rename_i _ he hv
          subst he
          exact (Memory.wf_cons _ _ _).mpr ⟨hv, hw.2.1, hw.2.2⟩
      · rename_i h1 h2
        refine (Memory.wf_cons _ _ _).mpr ⟨hw.1, ?_, ih hw.2.2⟩
        exact Memory.write_all_gt rest a k v (by omega) hw.2.1

/-- The byte written is read back. -/
theorem Memory.read_write_same (m : List Host.Cell) (a : Nat) (v : Byte) (h : Memory.wf m = true) :
    Memory.read (Memory.write m a v) a = v := by
  induction m with
  | nil => simp only [Memory.write]; split <;> simp_all [Memory.read]
  | cons c rest ih =>
    obtain ⟨k, b⟩ := c
    have hw := (Memory.wf_cons k b rest).mp h
    simp only [Memory.write]
    split
    · rename_i hlt
      split
      · rename_i hv
        have hk : k ≠ a := by omega
        have hall : rest.all (fun c => decide (a < c.1)) = true := by
          have := hw.2.1
          simp only [List.all_eq_true, decide_eq_true_eq] at this ⊢
          intro c hc; have := this c hc; omega
        simp [Memory.read, hk, Memory.read_of_all_gt rest a hall, hv]
      · simp [Memory.read]
    · split
      · rename_i he
        subst he
        split
        · rename_i hv
          rw [Memory.read_of_all_gt rest a hw.2.1, hv]
        · simp [Memory.read]
      · rename_i h1 h2
        have hk : k ≠ a := fun e => h2 e.symm
        simp [Memory.read, hk, ih hw.2.2]

/-- Every other byte reads as before. -/
theorem Memory.read_write_other (m : List Host.Cell) (a x : Nat) (v : Byte) (hx : x ≠ a) :
    Memory.read (Memory.write m a v) x = Memory.read m x := by
  have hx' : ¬ a = x := fun e => hx e.symm
  induction m with
  | nil => simp only [Memory.write]; split <;> simp [Memory.read, hx']
  | cons c rest ih =>
    obtain ⟨k, b⟩ := c
    simp only [Memory.write]
    split
    · split
      · rfl
      · simp [Memory.read, hx']
    · split
      · rename_i he
        subst he
        split <;> simp [Memory.read, hx']
      · simp only [Memory.read]
        split
        · rfl
        · exact ih

/-- One statement of what a write does: read after write, for every address. -/
theorem Memory.read_write (m : List Host.Cell) (a x : Nat) (v : Byte) (h : Memory.wf m = true) :
    Memory.read (Memory.write m a v) x = if x = a then v else Memory.read m x := by
  split
  · rename_i he; subst he; exact Memory.read_write_same m x v h
  · rename_i he; exact Memory.read_write_other m a x v he

/-- Bytes of different places of host buffers have different keys, for offsets below 65536 (log entry 4). -/
theorem hostAddr_inj (b b' off off' : Nat) (h : off < 65536) (h' : off' < 65536)
    (e : hostAddr b off = hostAddr b' off') : b = b' ∧ off = off' := by
  simp only [hostAddr] at e; omega

/-- The environment's write of a host buffer keeps the canonical form. -/
theorem State.setHostBytes_hbuf_wf (b : Nat) (l : List Byte) (off : Nat) (s : State)
    (h : Memory.wf s.hbuf = true) : Memory.wf (State.setHostBytes b off l s).hbuf = true := by
  induction l generalizing off s with
  | nil => exact h
  | cons v rest ih =>
    simp only [State.setHostBytes]
    split
    · exact ih _ _ (Memory.write_wf _ _ _ h)
    · exact ih _ _ h

/-- The memories after reset are canonical, whatever the configuration. -/
theorem State.resetWith_memory_wf (c : Config) (t : Tables) (v l h : Bool) :
    Memory.wf (State.resetWith c t v l h).cache = true ∧ Memory.wf (State.resetWith c t v l h).hbuf = true :=
  ⟨rfl, rfl⟩

end Sys2Proof.Machine
end

