-- ==== Sys2Proof/Laws/Ops.lean ====
section
/-! SUPPORT. The laws of the register tables and of the shared operations: for each, what it changes and that it changes
nothing else. -/

namespace Sys2Proof.Machine

-- Elaborated one after another: hundreds of theorems at once exhaust the threads the memory limit allows.
set_option Elab.async false

/-! ### Register tables -/

/-- An entry of a table reads as written, every other entry as before. -/
theorem tableSet_getD {α : Type} (d v : α) (l : List α) (i j : Nat) :
    (tableSet d l i v).getD j d = if j = i then v else l.getD j d := by
  induction i generalizing l j with
  | zero => cases l <;> cases j <;> simp [tableSet]
  | succ i ih =>
    cases l with
    | nil =>
      cases j with
      | zero => simp [tableSet]
      | succ j => simpa [tableSet] using ih [] j
    | cons x rest =>
      cases j with
      | zero => simp [tableSet]
      | succ j => simpa [tableSet] using ih rest j

/-- Writing an entry that is there keeps the length. -/
theorem tableSet_length {α : Type} (d v : α) (l : List α) (i : Nat) (h : i < l.length) :
    (tableSet d l i v).length = l.length := by
  induction i generalizing l with
  | zero => cases l <;> simp_all [tableSet]
  | succ i ih =>
    cases l with
    | nil => simp at h
    | cons x rest => simp only [tableSet, List.length_cons] at h ⊢; rw [ih rest (by omega)]

/-- What a table holds after a write: the new value, the old values, or the filling. -/
theorem mem_tableSet {α : Type} (d v x : α) (l : List α) (i : Nat) (h : x ∈ tableSet d l i v) :
    x = v ∨ x ∈ l ∨ x = d := by
  induction i generalizing l with
  | zero => cases l <;> simp [tableSet] at h <;> rcases h with h | h <;> simp_all
  | succ i ih =>
    cases l with
    | nil =>
      simp only [tableSet, List.mem_cons] at h
      rcases h with h | h
      · exact .inr (.inr h)
      · rcases ih [] h with h | h | h
        · exact .inl h
        · exact .inr (.inl h)
        · exact .inr (.inr h)
    | cons y rest =>
      simp only [tableSet, List.mem_cons] at h ⊢
      rcases h with h | h
      · exact .inr (.inl (.inl h))
      · rcases ih rest h with h | h | h
        · exact .inl h
        · exact .inr (.inl (.inr h))
        · exact .inr (.inr h)

theorem State.setPipe_pipe (s : State) (p q : Nat) (r : Pipe) :
    (s.setPipe p r).pipe q = if q = p then r else s.pipe q := tableSet_getD _ _ _ _ _

theorem State.setJob_job (s : State) (p q : Nat) (j : Job) :
    (s.setJob p j).job q = if q = p then j else s.job q := tableSet_getD _ _ _ _ _

theorem State.setIface_iface (s : State) (i k : Nat) (f : Iface) :
    (s.setIface i f).iface k = if k = i then f else s.iface k := tableSet_getD _ _ _ _ _

theorem State.setHalPipe_halPipe (s : State) (p q : Nat) (h : HalPipe) :
    (s.setHalPipe p h).halPipe q = if q = p then h else s.halPipe q := tableSet_getD _ _ _ _ _

/-! ### HAL actions (rule R61): what the HAL holds, and the output issued, change; nothing else does -/

/-- What a HAL action changes of the state is what the HAL holds. -/
theorem State.onLive_eq (s : State) (p : Nat) (f : HalPipe → HalPipe) : s.onLive p f = s.setHal (s.onLive p f).hal := by
  unfold State.onLive; split <;> rfl

/-- The same of an action that takes a packet. -/
theorem State.onTaken_eq (s : State) (p : Nat) (r : HalPipe → Bool) (f : HalPipe → HalPipe) :
    s.onTaken p r f = s.setHal (s.onTaken p r f).hal := by
  unfold State.onTaken; split <;> rfl

/-- The frame of a HAL action's effect. -/
theorem halEffect_eq (a : HalAction) (s : State) : halEffect a s = s.setHal (halEffect a s).hal := by
  cases a <;> first | rfl | (simp only [halEffect]; first | exact State.onLive_eq .. | exact State.onTaken_eq ..)

/-- The frame of a HAL action. -/
theorem State.doHal_eq (a : HalAction) (s : State) :
    s.doHal a = (s.emit (.hal a)).setHal (s.doHal a).hal := by
  unfold State.doHal; rw [halEffect_eq]; rfl

@[simp] theorem State.doHal_cfg (a : HalAction) (s : State) : (s.doHal a).cfg = s.cfg := by rw [State.doHal_eq]; rfl
@[simp] theorem State.doHal_tables (a : HalAction) (s : State) : (s.doHal a).tables = s.tables := by rw [State.doHal_eq]; rfl
@[simp] theorem State.doHal_ds (a : HalAction) (s : State) : (s.doHal a).ds = s.ds := by rw [State.doHal_eq]; rfl
@[simp] theorem State.doHal_ct (a : HalAction) (s : State) : (s.doHal a).ct = s.ct := by rw [State.doHal_eq]; rfl
@[simp] theorem State.doHal_sp (a : HalAction) (s : State) : (s.doHal a).sp = s.sp := by rw [State.doHal_eq]; rfl
@[simp] theorem State.doHal_flags (a : HalAction) (s : State) : (s.doHal a).flags = s.flags := by rw [State.doHal_eq]; rfl
@[simp] theorem State.doHal_en (a : HalAction) (s : State) : (s.doHal a).en = s.en := by rw [State.doHal_eq]; rfl
@[simp] theorem State.doHal_cnt (a : HalAction) (s : State) : (s.doHal a).cnt = s.cnt := by rw [State.doHal_eq]; rfl
@[simp] theorem State.doHal_ident (a : HalAction) (s : State) : (s.doHal a).ident = s.ident := by rw [State.doHal_eq]; rfl
@[simp] theorem State.doHal_sr (a : HalAction) (s : State) : (s.doHal a).sr = s.sr := by rw [State.doHal_eq]; rfl
@[simp] theorem State.doHal_cacheLen (a : HalAction) (s : State) : (s.doHal a).cacheLen = s.cacheLen := by rw [State.doHal_eq]; rfl
@[simp] theorem State.doHal_nsi (a : HalAction) (s : State) : (s.doHal a).nsi = s.nsi := by rw [State.doHal_eq]; rfl
@[simp] theorem State.doHal_si (a : HalAction) (s : State) : (s.doHal a).si = s.si := by rw [State.doHal_eq]; rfl
@[simp] theorem State.doHal_parse (a : HalAction) (s : State) : (s.doHal a).parse = s.parse := by rw [State.doHal_eq]; rfl
@[simp] theorem State.doHal_pipes (a : HalAction) (s : State) : (s.doHal a).pipes = s.pipes := by rw [State.doHal_eq]; rfl
@[simp] theorem State.doHal_jobs (a : HalAction) (s : State) : (s.doHal a).jobs = s.jobs := by rw [State.doHal_eq]; rfl
@[simp] theorem State.doHal_args (a : HalAction) (s : State) : (s.doHal a).args = s.args := by rw [State.doHal_eq]; rfl
@[simp] theorem State.doHal_res (a : HalAction) (s : State) : (s.doHal a).res = s.res := by rw [State.doHal_eq]; rfl
@[simp] theorem State.doHal_cache (a : HalAction) (s : State) : (s.doHal a).cache = s.cache := by rw [State.doHal_eq]; rfl
@[simp] theorem State.doHal_hbuf (a : HalAction) (s : State) : (s.doHal a).hbuf = s.hbuf := by rw [State.doHal_eq]; rfl
@[simp] theorem State.doHal_fg (a : HalAction) (s : State) : (s.doHal a).fg = s.fg := by rw [State.doHal_eq]; rfl
@[simp] theorem State.doHal_st (a : HalAction) (s : State) : (s.doHal a).st = s.st := by rw [State.doHal_eq]; rfl
@[simp] theorem State.doHal_bus (a : HalAction) (s : State) : (s.doHal a).bus = s.bus := by rw [State.doHal_eq]; rfl
@[simp] theorem State.doHal_inputs (a : HalAction) (s : State) : (s.doHal a).inputs = s.inputs := by rw [State.doHal_eq]; rfl
@[simp] theorem State.doHal_plan (a : HalAction) (s : State) : (s.doHal a).plan = s.plan := by rw [State.doHal_eq]; rfl
@[simp] theorem State.doHal_trace (a : HalAction) (s : State) : (s.doHal a).trace = .hal a :: s.trace := by rw [State.doHal_eq]; rfl
@[simp] theorem State.doHal_free (a : HalAction) (s : State) : (s.doHal a).free = s.free := by rw [State.doHal_eq]; rfl
@[simp] theorem State.doHal_pipe (a : HalAction) (s : State) (q : Nat) : (s.doHal a).pipe q = s.pipe q := by rw [State.doHal_eq]; rfl
@[simp] theorem State.doHal_job (a : HalAction) (s : State) (q : Nat) : (s.doHal a).job q = s.job q := by rw [State.doHal_eq]; rfl
@[simp] theorem State.doHal_iface (a : HalAction) (s : State) (q : Nat) : (s.doHal a).iface q = s.iface q := by rw [State.doHal_eq]; rfl
@[simp] theorem State.doHal_cacheByte (a : HalAction) (s : State) (x : Nat) : (s.doHal a).cacheByte x = s.cacheByte x := by rw [State.doHal_eq]; rfl
@[simp] theorem State.doHal_hostByte (a : HalAction) (s : State) (x y : Nat) : (s.doHal a).hostByte x y = s.hostByte x y := by rw [State.doHal_eq]; rfl
@[simp] theorem State.doHal_anyArmed (a : HalAction) (s : State) : (s.doHal a).anyArmed = s.anyArmed := by rw [State.doHal_eq]; rfl

/-- What the HAL holds of a pipe that is changed, and of the other pipes. -/
theorem State.onPipe_halPipe (s : State) (p q : Nat) (f : HalPipe → HalPipe) :
    (s.onPipe p f).halPipe q = if q = p then f (s.halPipe p) else s.halPipe q := State.setHalPipe_halPipe ..

/-- What the HAL holds of a pipe after an action on it that takes effect, and of the other pipes. -/
theorem State.onLive_halPipe (s : State) (p q : Nat) (f : HalPipe → HalPipe) :
    (s.onLive p f).halPipe q = if q = p ∧ s.live p then f (s.halPipe p) else s.halPipe q := by
  unfold State.onLive
  split
  · rename_i h; simp [State.onPipe_halPipe, h]
  · rename_i h; simp [h]

/-- What the HAL holds of a pipe after an action that takes its packet, and of the other pipes. -/
theorem State.onTaken_halPipe (s : State) (p q : Nat) (r : HalPipe → Bool) (f : HalPipe → HalPipe) :
    (s.onTaken p r f).halPipe q = if q = p ∧ s.takes p r then f (s.halPipe p) else s.halPipe q := by
  unfold State.onTaken
  split
  · rename_i h; simp [State.onPipe_halPipe, h]
  · rename_i h; simp [h]

/-- When an action that takes a packet has its effect. -/
theorem State.takes_eq (s : State) (p : Nat) (r : HalPipe → Bool) :
    s.takes p r = true ↔ s.live p = true ∨ (s.flags.emerg = true ∧ r (s.halPipe p) = true) := by
  simp [State.takes]

/-! ### `FIFO[p]` holds at most `PIPE_CAP[p]` bytes (rule R80 (3)) -/

/-- What is kept of the bytes that came fits. -/
theorem State.fitFifo_le (s : State) (p : Nat) (l : List Byte) : (s.fitFifo p l).length ≤ s.cfg.cap p := by
  unfold State.fitFifo
  split
  · assumption
  · simp

/-- Bytes that fit are kept as they came. -/
theorem State.fitFifo_of_le {s : State} {p : Nat} {l : List Byte} (h : l.length ≤ s.cfg.cap p) : s.fitFifo p l = l :=
  if_pos h

/-- Every FIFO fits its pipe. -/
def State.fifosFit (s : State) : Prop := ∀ p, (s.halPipe p).fifo.length ≤ s.cfg.cap p

/-- A change of one pipe that leaves a FIFO that fits keeps every FIFO fitting. -/
theorem State.onPipe_fifosFit {s : State} (p : Nat) {f : HalPipe → HalPipe} (h : s.fifosFit)
    (hf : (f (s.halPipe p)).fifo.length ≤ s.cfg.cap p) : (s.onPipe p f).fifosFit := by
  intro q
  show ((s.onPipe p f).halPipe q).fifo.length ≤ s.cfg.cap q
  rw [State.onPipe_halPipe]
  split
  · rename_i hq; exact hq ▸ hf
  · exact h q

/-- The same for an action that may have no effect. -/
theorem State.onLive_fifosFit {s : State} (p : Nat) {f : HalPipe → HalPipe} (h : s.fifosFit)
    (hf : (f (s.halPipe p)).fifo.length ≤ s.cfg.cap p) : (s.onLive p f).fifosFit := by
  unfold State.onLive
  split
  · exact State.onPipe_fifosFit p h hf
  · exact h

/-- The same for an action that takes a packet. -/
theorem State.onTaken_fifosFit {s : State} (p : Nat) (r : HalPipe → Bool) {f : HalPipe → HalPipe} (h : s.fifosFit)
    (hf : (f (s.halPipe p)).fifo.length ≤ s.cfg.cap p) : (s.onTaken p r f).fifosFit := by
  unfold State.onTaken
  split
  · exact State.onPipe_fifosFit p h hf
  · exact h

/-- Every HAL action keeps every FIFO fitting. -/
theorem State.doHal_fifosFit (a : HalAction) {s : State} (h : s.fifosFit) : (s.doHal a).fifosFit := by
  have hs : (s.emit (.hal a)).fifosFit := h
  unfold State.doHal
  generalize s.emit (.hal a) = u at hs
  cases a <;> simp only [halEffect]
  case fifoWrite p b => exact State.onLive_fifosFit p hs (State.fitFifo_le ..)
  case fifoRead p => exact State.onTaken_fifosFit p _ hs (by simpa using Nat.le_trans (Nat.sub_le _ _) (hs p))
  case ackIn p => exact State.onTaken_fifosFit p _ hs (Nat.zero_le _)
  case resetPipe p => exact State.onLive_fifosFit p hs (Nat.zero_le _)
  case configurePipe p _ _ _ _ _ _ => exact State.onPipe_fifosFit p hs (hs p)
  case disablePipe p => exact State.onPipe_fifosFit p hs (hs p)
  case ackSetup p => exact State.onLive_fifosFit p hs (hs p)
  case ackOut p => exact State.onTaken_fifosFit p _ hs (hs p)
  case ackStall p => exact State.onLive_fifosFit p hs (hs p)
  case ackNak p => exact State.onLive_fifosFit p hs (hs p)
  case ackErrors p => exact State.onLive_fifosFit p hs (hs p)
  case freezePipe p => exact State.onLive_fifosFit p hs (hs p)
  case unfreezePipe p => exact State.onLive_fifosFit p hs (hs p)
  case setToken p _ => exact State.onLive_fifosFit p hs (hs p)
  case sendSetup p => exact State.onLive_fifosFit p hs (hs p)
  case sendOut p => exact State.onLive_fifosFit p hs (hs p)
  case enablePipeInt p _ => exact State.onLive_fifosFit p hs (hs p)
  case disablePipeInt p => exact State.onLive_fifosFit p hs (hs p)
  all_goals exact hs

/-! ### `hal.fifo_read` -/

/-- Drawing a free byte moves only the counter. -/
theorem State.drawFree_eq (p : Nat) (s : State) : s.drawFree p = s.setFree (s.drawFree p).free := by
  unfold State.drawFree; split <;> rfl

/-- The frame of `hal.fifo_read`. -/
theorem State.fifoPop_eq (p : Nat) (s : State) :
    s.fifoPop p = ((s.emit (.hal (.fifoRead p))).setHal (s.fifoPop p).hal).setFree (s.fifoPop p).free := by
  unfold State.fifoPop; rw [State.doHal_eq, State.drawFree_eq]; rfl

@[simp] theorem State.fifoPop_cfg (p : Nat) (s : State) : (s.fifoPop p).cfg = s.cfg := by rw [State.fifoPop_eq]; rfl
@[simp] theorem State.fifoPop_tables (p : Nat) (s : State) : (s.fifoPop p).tables = s.tables := by rw [State.fifoPop_eq]; rfl
@[simp] theorem State.fifoPop_ds (p : Nat) (s : State) : (s.fifoPop p).ds = s.ds := by rw [State.fifoPop_eq]; rfl
@[simp] theorem State.fifoPop_ct (p : Nat) (s : State) : (s.fifoPop p).ct = s.ct := by rw [State.fifoPop_eq]; rfl
@[simp] theorem State.fifoPop_sp (p : Nat) (s : State) : (s.fifoPop p).sp = s.sp := by rw [State.fifoPop_eq]; rfl
@[simp] theorem State.fifoPop_flags (p : Nat) (s : State) : (s.fifoPop p).flags = s.flags := by rw [State.fifoPop_eq]; rfl
@[simp] theorem State.fifoPop_en (p : Nat) (s : State) : (s.fifoPop p).en = s.en := by rw [State.fifoPop_eq]; rfl
@[simp] theorem State.fifoPop_cnt (p : Nat) (s : State) : (s.fifoPop p).cnt = s.cnt := by rw [State.fifoPop_eq]; rfl
@[simp] theorem State.fifoPop_ident (p : Nat) (s : State) : (s.fifoPop p).ident = s.ident := by rw [State.fifoPop_eq]; rfl
@[simp] theorem State.fifoPop_sr (p : Nat) (s : State) : (s.fifoPop p).sr = s.sr := by rw [State.fifoPop_eq]; rfl
@[simp] theorem State.fifoPop_cacheLen (p : Nat) (s : State) : (s.fifoPop p).cacheLen = s.cacheLen := by rw [State.fifoPop_eq]; rfl
@[simp] theorem State.fifoPop_nsi (p : Nat) (s : State) : (s.fifoPop p).nsi = s.nsi := by rw [State.fifoPop_eq]; rfl
@[simp] theorem State.fifoPop_si (p : Nat) (s : State) : (s.fifoPop p).si = s.si := by rw [State.fifoPop_eq]; rfl
@[simp] theorem State.fifoPop_parse (p : Nat) (s : State) : (s.fifoPop p).parse = s.parse := by rw [State.fifoPop_eq]; rfl
@[simp] theorem State.fifoPop_pipes (p : Nat) (s : State) : (s.fifoPop p).pipes = s.pipes := by rw [State.fifoPop_eq]; rfl
@[simp] theorem State.fifoPop_jobs (p : Nat) (s : State) : (s.fifoPop p).jobs = s.jobs := by rw [State.fifoPop_eq]; rfl
@[simp] theorem State.fifoPop_args (p : Nat) (s : State) : (s.fifoPop p).args = s.args := by rw [State.fifoPop_eq]; rfl
@[simp] theorem State.fifoPop_res (p : Nat) (s : State) : (s.fifoPop p).res = s.res := by rw [State.fifoPop_eq]; rfl
@[simp] theorem State.fifoPop_cache (p : Nat) (s : State) : (s.fifoPop p).cache = s.cache := by rw [State.fifoPop_eq]; rfl
@[simp] theorem State.fifoPop_hbuf (p : Nat) (s : State) : (s.fifoPop p).hbuf = s.hbuf := by rw [State.fifoPop_eq]; rfl
@[simp] theorem State.fifoPop_fg (p : Nat) (s : State) : (s.fifoPop p).fg = s.fg := by rw [State.fifoPop_eq]; rfl
@[simp] theorem State.fifoPop_st (p : Nat) (s : State) : (s.fifoPop p).st = s.st := by rw [State.fifoPop_eq]; rfl
@[simp] theorem State.fifoPop_bus (p : Nat) (s : State) : (s.fifoPop p).bus = s.bus := by rw [State.fifoPop_eq]; rfl
@[simp] theorem State.fifoPop_inputs (p : Nat) (s : State) : (s.fifoPop p).inputs = s.inputs := by rw [State.fifoPop_eq]; rfl
@[simp] theorem State.fifoPop_plan (p : Nat) (s : State) : (s.fifoPop p).plan = s.plan := by rw [State.fifoPop_eq]; rfl
@[simp] theorem State.fifoPop_trace (p : Nat) (s : State) : (s.fifoPop p).trace = .hal (.fifoRead p) :: s.trace := by rw [State.fifoPop_eq]; rfl

/-! ### Straight-line micro-steps -/

@[simp] theorem act_cfg (a : Act) (s : State) : (act a s).cfg = s.cfg := by
  cases a <;> simp [act]

@[simp] theorem act_tables (a : Act) (s : State) : (act a s).tables = s.tables := by
  cases a <;> simp [act]

@[simp] theorem act_bus (a : Act) (s : State) : (act a s).bus = s.bus := by
  cases a <;> simp [act]

@[simp] theorem act_inputs (a : Act) (s : State) : (act a s).inputs = s.inputs := by
  cases a <;> simp [act]

@[simp] theorem act_plan (a : Act) (s : State) : (act a s).plan = s.plan := by
  cases a <;> simp [act]

@[simp] theorem act_args (a : Act) (s : State) : (act a s).args = s.args := by
  cases a <;> simp [act]

@[simp] theorem act_fg (a : Act) (s : State) : (act a s).fg = s.fg := by
  cases a <;> simp [act]

/-- Two lists of straight-line micro-steps, one after the other. -/
theorem acts_append (l l' : List Act) (s : State) : acts (l ++ l') s = acts l' (acts l s) := by
  induction l generalizing s with
  | nil => rfl
  | cons a rest ih => exact ih (act a s)

@[simp] theorem acts_cfg (l : List Act) (s : State) : (acts l s).cfg = s.cfg := by
  induction l generalizing s with
  | nil => rfl
  | cons a rest ih => simp [acts, ih]

@[simp] theorem acts_tables (l : List Act) (s : State) : (acts l s).tables = s.tables := by
  induction l generalizing s with
  | nil => rfl
  | cons a rest ih => simp [acts, ih]

@[simp] theorem acts_bus (l : List Act) (s : State) : (acts l s).bus = s.bus := by
  induction l generalizing s with
  | nil => rfl
  | cons a rest ih => simp [acts, ih]

@[simp] theorem acts_inputs (l : List Act) (s : State) : (acts l s).inputs = s.inputs := by
  induction l generalizing s with
  | nil => rfl
  | cons a rest ih => simp [acts, ih]

@[simp] theorem acts_plan (l : List Act) (s : State) : (acts l s).plan = s.plan := by
  induction l generalizing s with
  | nil => rfl
  | cons a rest ih => simp [acts, ih]

@[simp] theorem acts_args (l : List Act) (s : State) : (acts l s).args = s.args := by
  induction l generalizing s with
  | nil => rfl
  | cons a rest ih => simp [acts, ih]

@[simp] theorem acts_fg (l : List Act) (s : State) : (acts l s).fg = s.fg := by
  induction l generalizing s with
  | nil => rfl
  | cons a rest ih => simp [acts, ih]

/-- A property that every straight-line micro-step of a list keeps. -/
theorem acts_induct (P : State → Prop) (l : List Act) (step : ∀ a ∈ l, ∀ s, P s → P (act a s)) (s : State) (h : P s) :
    P (acts l s) := by
  induction l generalizing s with
  | nil => exact h
  | cons a rest ih =>
    exact ih (fun b hb => step b (List.mem_cons_of_mem _ hb)) _ (step a (List.mem_cons_self ..) s h)

/-- A straight-line micro-step keeps the canonical form of both memories. -/
theorem act_memory_wf (a : Act) (s : State) (hc : Memory.wf s.cache = true) (hh : Memory.wf s.hbuf = true) :
    Memory.wf (act a s).cache = true ∧ Memory.wf (act a s).hbuf = true := by
  cases a
  case fifoToHost p b off => exact ⟨by simpa [act] using hc, by simpa [act] using Memory.write_wf _ _ _ hh⟩
  all_goals simp [act, hc, hh]

/-! ### Arming and completing a job (rule R343, rule R352) -/

/-- The `critical` body of `Arm`: the job's entry and the enables, nothing else. -/
theorem State.armBody_eq (p : Nat) (dirIn : Bool) (buf len cb : Nat) (s : State) :
    s.armBody p dirIn buf len cb =
      (s.setJobs (s.armBody p dirIn buf len cb).jobs).setEn (s.armBody p dirIn buf len cb).en := rfl

/-- The job's entry after the `critical` body of `Arm`, and every other entry. -/
theorem State.armBody_job (p q : Nat) (dirIn : Bool) (buf len cb : Nat) (s : State) :
    (s.armBody p dirIn buf len cb).job q =
      if q = p then ⟨true, dirIn, len, 0, 0, buf, cb, armBudget s.cfg dirIn, 0, Status.good⟩ else s.job q :=
  tableSet_getD _ _ _ _ _

@[simp] theorem State.completeBody_cfg (p : Nat) (v : Status) (s : State) : (s.completeBody p v).cfg = s.cfg := by
  simp [State.completeBody]
@[simp] theorem State.completeBody_tables (p : Nat) (v : Status) (s : State) : (s.completeBody p v).tables = s.tables := by
  simp [State.completeBody]
@[simp] theorem State.completeBody_ds (p : Nat) (v : Status) (s : State) : (s.completeBody p v).ds = s.ds := by
  simp [State.completeBody]
@[simp] theorem State.completeBody_ct (p : Nat) (v : Status) (s : State) : (s.completeBody p v).ct = s.ct := by
  simp [State.completeBody]
@[simp] theorem State.completeBody_sp (p : Nat) (v : Status) (s : State) : (s.completeBody p v).sp = s.sp := by
  simp [State.completeBody]
@[simp] theorem State.completeBody_flags (p : Nat) (v : Status) (s : State) : (s.completeBody p v).flags = s.flags := by
  simp [State.completeBody]
@[simp] theorem State.completeBody_cnt (p : Nat) (v : Status) (s : State) : (s.completeBody p v).cnt = s.cnt := by
  simp [State.completeBody]
@[simp] theorem State.completeBody_ident (p : Nat) (v : Status) (s : State) : (s.completeBody p v).ident = s.ident := by
  simp [State.completeBody]
@[simp] theorem State.completeBody_sr (p : Nat) (v : Status) (s : State) : (s.completeBody p v).sr = s.sr := by
  simp [State.completeBody]
@[simp] theorem State.completeBody_cacheLen (p : Nat) (v : Status) (s : State) : (s.completeBody p v).cacheLen = s.cacheLen := by
  simp [State.completeBody]
@[simp] theorem State.completeBody_nsi (p : Nat) (v : Status) (s : State) : (s.completeBody p v).nsi = s.nsi := by
  simp [State.completeBody]
@[simp] theorem State.completeBody_si (p : Nat) (v : Status) (s : State) : (s.completeBody p v).si = s.si := by
  simp [State.completeBody]
@[simp] theorem State.completeBody_parse (p : Nat) (v : Status) (s : State) : (s.completeBody p v).parse = s.parse := by
  simp [State.completeBody]
@[simp] theorem State.completeBody_args (p : Nat) (v : Status) (s : State) : (s.completeBody p v).args = s.args := by
  simp [State.completeBody]
@[simp] theorem State.completeBody_res (p : Nat) (v : Status) (s : State) : (s.completeBody p v).res = s.res := by
  simp [State.completeBody]
@[simp] theorem State.completeBody_cache (p : Nat) (v : Status) (s : State) : (s.completeBody p v).cache = s.cache := by
  simp [State.completeBody]
@[simp] theorem State.completeBody_hbuf (p : Nat) (v : Status) (s : State) : (s.completeBody p v).hbuf = s.hbuf := by
  simp [State.completeBody]
@[simp] theorem State.completeBody_fg (p : Nat) (v : Status) (s : State) : (s.completeBody p v).fg = s.fg := by
  simp [State.completeBody]
@[simp] theorem State.completeBody_st (p : Nat) (v : Status) (s : State) : (s.completeBody p v).st = s.st := by
  simp [State.completeBody]
@[simp] theorem State.completeBody_bus (p : Nat) (v : Status) (s : State) : (s.completeBody p v).bus = s.bus := by
  simp [State.completeBody]
@[simp] theorem State.completeBody_inputs (p : Nat) (v : Status) (s : State) : (s.completeBody p v).inputs = s.inputs := by
  simp [State.completeBody]
@[simp] theorem State.completeBody_plan (p : Nat) (v : Status) (s : State) : (s.completeBody p v).plan = s.plan := by
  simp [State.completeBody]
@[simp] theorem State.completeBody_free (p : Nat) (v : Status) (s : State) : (s.completeBody p v).free = s.free := by
  simp [State.completeBody]

/-- The job's entry after the `critical` body of `Complete`, and every other entry. -/
theorem State.completeBody_job (p q : Nat) (v : Status) (s : State) :
    (s.completeBody p v).job q =
      if q = p then { s.job p with enabled := false, status := v, inflight := 0 } else s.job q := by
  simp [State.completeBody, State.setJob_job]

/-- The pipe's entry after the `critical` body of `Complete`, and every other entry. -/
theorem State.completeBody_pipe (p q : Nat) (v : Status) (s : State) :
    (s.completeBody p v).pipe q = if q = p then { s.pipe p with frozen := true } else s.pipe q := by
  simp [State.completeBody, State.setPipe_pipe]

/-- What the `critical` body of `Complete` issues. -/
theorem State.completeBody_trace (p : Nat) (v : Status) (s : State) :
    (s.completeBody p v).trace =
      .hal (if v ≠ Status.good then .resetPipe p else .freezePipe p) :: .hal (.disablePipeInt p) :: s.trace := by
  simp [State.completeBody]

end Sys2Proof.Machine
end

