-- ==== Sys2Proof/Laws/PerInstr.lean ====
section
/-! SUPPORT. The family `ReservedZero`: what no encoding of an operation uses is zero on the wire. One lemma per
constructor of `Instr`. -/

namespace Sys2Proof.Laws

-- Elaborated one after another: hundreds of theorems at once exhaust the threads the memory limit allows.
set_option Elab.async false

/-- The reserved field of a command word written from its fields (rule R111). -/
theorem fieldZ_cmdWord (op a b : BitVec 8) : fieldZ (cmdWord op a b) = 0#8 := by
  ext i hi
  simp only [fieldZ, cmdWord, BitVec.getElem_extractLsb', Nat.zero_add]
  erw [BitVec.getLsbD_append]
  simp [hi]

/-- The high byte of `wIndex` on the wire (rule R118). -/
theorem wireByte_five_setupWire (rt rq : Byte) (value index length : Half) :
    wireByte (setupWire rt rq value index length) 5 = index.extractLsb' 8 8 := by
  ext i hi
  simp only [wireByte, setupWire, BitVec.getElem_extractLsb']
  repeat erw [BitVec.getLsbD_append]
  have h1 : ¬ 8 * 5 + i < 8 := by omega
  have h2 : ¬ 8 * 5 + i - 8 < 8 := by omega
  have h3 : ¬ 8 * 5 + i - 8 - 8 < 16 := by omega
  have h4 : 8 * 5 + i - 8 - 8 - 16 < 16 := by omega
  rw [if_neg h1, if_neg h2, if_neg h3, if_pos h4]
  congr 1
  omega

/-- A byte widened to a 16-bit field has a zero high byte. -/
theorem high_zero (v : BitVec 8) : ((0#8 ++ v : BitVec 16)).extractLsb' 8 8 = 0#8 := by
  ext i hi
  simp only [BitVec.getElem_extractLsb']
  erw [BitVec.getLsbD_append]
  simp

/-- The reserved field of a command word is zero, and so is the high byte of `wIndex` of every request builder. -/
def ReservedZero.Statement (i : Instr) : Prop :=
  match encode i with
  | .cmd w => fieldZ w = 0#8
  | .setup w _ => wireByte w 5 = 0#8

theorem ReservedZero.tick : ReservedZero.Statement (.tick) :=
  fieldZ_cmdWord _ _ _

theorem ReservedZero.transferControl (b : BitVec 8) : ReservedZero.Statement (.transferControl b) :=
  fieldZ_cmdWord _ _ _

theorem ReservedZero.sendData (p : BitVec 8) : ReservedZero.Statement (.sendData p) :=
  fieldZ_cmdWord _ _ _

theorem ReservedZero.getData (p : BitVec 8) : ReservedZero.Statement (.getData p) :=
  fieldZ_cmdWord _ _ _

theorem ReservedZero.sendDataAsync (p : BitVec 8) : ReservedZero.Statement (.sendDataAsync p) :=
  fieldZ_cmdWord _ _ _

theorem ReservedZero.getDataAsync (p : BitVec 8) : ReservedZero.Statement (.getDataAsync p) :=
  fieldZ_cmdWord _ _ _

theorem ReservedZero.suspend : ReservedZero.Statement (.suspend) :=
  fieldZ_cmdWord _ _ _

theorem ReservedZero.resume : ReservedZero.Statement (.resume) :=
  fieldZ_cmdWord _ _ _

theorem ReservedZero.abortAllPipes : ReservedZero.Statement (.abortAllPipes) :=
  fieldZ_cmdWord _ _ _

theorem ReservedZero.pipeIsr (p : BitVec 8) : ReservedZero.Statement (.pipeIsr p) :=
  fieldZ_cmdWord _ _ _

theorem ReservedZero.checkVidPid : ReservedZero.Statement (.checkVidPid) :=
  fieldZ_cmdWord _ _ _

theorem ReservedZero.checkClass : ReservedZero.Statement (.checkClass) :=
  fieldZ_cmdWord _ _ _

theorem ReservedZero.isHostReady : ReservedZero.Statement (.isHostReady) :=
  fieldZ_cmdWord _ _ _

theorem ReservedZero.isHostSuspended : ReservedZero.Statement (.isHostSuspended) :=
  fieldZ_cmdWord _ _ _

theorem ReservedZero.getVid : ReservedZero.Statement (.getVid) :=
  fieldZ_cmdWord _ _ _

theorem ReservedZero.getPid : ReservedZero.Statement (.getPid) :=
  fieldZ_cmdWord _ _ _

theorem ReservedZero.numSupportedInterfaces : ReservedZero.Statement (.numSupportedInterfaces) :=
  fieldZ_cmdWord _ _ _

theorem ReservedZero.interfaceClass (i : BitVec 8) : ReservedZero.Statement (.interfaceClass i) :=
  fieldZ_cmdWord _ _ _

theorem ReservedZero.interfaceSubclass (i : BitVec 8) : ReservedZero.Statement (.interfaceSubclass i) :=
  fieldZ_cmdWord _ _ _

theorem ReservedZero.interfaceProtocol (i : BitVec 8) : ReservedZero.Statement (.interfaceProtocol i) :=
  fieldZ_cmdWord _ _ _

theorem ReservedZero.interfacePipe (i e : BitVec 8) : ReservedZero.Statement (.interfacePipe i e) :=
  fieldZ_cmdWord _ _ _

theorem ReservedZero.evSof : ReservedZero.Statement (.evSof) :=
  fieldZ_cmdWord _ _ _

theorem ReservedZero.evDisconnect : ReservedZero.Statement (.evDisconnect) :=
  fieldZ_cmdWord _ _ _

theorem ReservedZero.evRoleChange : ReservedZero.Statement (.evRoleChange) :=
  fieldZ_cmdWord _ _ _

theorem ReservedZero.evVbusError : ReservedZero.Statement (.evVbusError) :=
  fieldZ_cmdWord _ _ _

theorem ReservedZero.evWakeup : ReservedZero.Statement (.evWakeup) :=
  fieldZ_cmdWord _ _ _

theorem ReservedZero.getDescriptorDevice (len : Half) (incomplete : Bool) : ReservedZero.Statement (.getDescriptorDevice len incomplete) := by
  simp only [ReservedZero.Statement, encode, wireByte_five_setupWire]
  rfl

theorem ReservedZero.getDescriptorConfiguration (idx : BitVec 8) (len : Half) : ReservedZero.Statement (.getDescriptorConfiguration idx len) := by
  simp only [ReservedZero.Statement, encode, wireByte_five_setupWire]
  rfl

theorem ReservedZero.hostSetAddress (addr : BitVec 8) : ReservedZero.Statement (.hostSetAddress addr) := by
  simp only [ReservedZero.Statement, encode, wireByte_five_setupWire]
  rfl

theorem ReservedZero.setConfiguration (cfg : BitVec 8) : ReservedZero.Statement (.setConfiguration cfg) := by
  simp only [ReservedZero.Statement, encode, wireByte_five_setupWire]
  rfl

theorem ReservedZero.setInterface (ifnum alt : BitVec 8) : ReservedZero.Statement (.setInterface ifnum alt) := by
  simp only [ReservedZero.Statement, encode, wireByte_five_setupWire]
  exact high_zero _

theorem ReservedZero.setFeatureRemoteWakeup : ReservedZero.Statement (.setFeatureRemoteWakeup) := by
  simp only [ReservedZero.Statement, encode, wireByte_five_setupWire]
  rfl

theorem ReservedZero.clearFeatureEndpointHalt (epaddr : BitVec 8) : ReservedZero.Statement (.clearFeatureEndpointHalt epaddr) := by
  simp only [ReservedZero.Statement, encode, wireByte_five_setupWire]
  exact high_zero _

theorem ReservedZero.getConfiguration : ReservedZero.Statement (.getConfiguration) := by
  simp only [ReservedZero.Statement, encode, wireByte_five_setupWire]
  rfl

end Sys2Proof.Laws
end

