-- ==== Sys2Proof/Laws/Run.lean ====
section
/-! SUPPORT. The laws of running the foreground: one micro-step at a time, a list of straight-line micro-steps at once,
more fuel for a run that has ended, and the one induction over a run. -/

namespace Sys2Proof.Machine

-- Elaborated one after another: hundreds of theorems at once exhaust the threads the memory limit allows.
set_option Elab.async false

/-- The environment does nothing before the foreground waits. -/
def State.calm (s : State) : Bool :=
  match s.inputs with
  | [] => true
  | ⟨.atWait, _⟩ :: _ => true
  | ⟨.after _, _⟩ :: _ => false

theorem State.calm_of_inputs {s t : State} (h : t.inputs = s.inputs) (hc : s.calm = true) : t.calm = true := by
  simpa [State.calm, h] using hc

theorem State.calm_nil {s : State} (h : s.inputs = []) : s.calm = true := by simp [State.calm, h]

theorem State.calm_atWait {s : State} {e : Event} {later : List Input} (h : s.inputs = ⟨.atWait, e⟩ :: later) :
    s.calm = true := by simp [State.calm, h]

theorem State.elapse_calm {s : State} (h : s.calm = true) : s.elapse = s := by
  unfold State.calm at h; unfold State.elapse
  split <;> simp_all

theorem State.dueNow_calm {s : State} (h : s.calm = true) : s.dueNow = none := by
  unfold State.calm at h; unfold State.dueNow
  split <;> simp_all

/-- An operation that has returned stays as it is. -/
theorem run_done (n : Nat) (s : State) (h : s.fg = []) : run n s = .next s := by
  cases n with
  | zero => rfl
  | succ n => simp [run, h]

/-- One micro-step that runs. -/
theorem run_ran (n : Nat) (s s1 : State) (m : Micro) (rest : List Micro) (hc : s.calm = true) (hf : s.fg = m :: rest)
    (hm : micro m (s.setFg rest) = .ran s1) : run (n + 1) s = run n s1.elapse := by
  simp [run, hf, State.dueNow_calm hc, hm]

/-- A poll that is pending when the environment has no more inputs: the foreground waits. -/
theorem run_hang (n : Nat) (s s1 : State) (m : Micro) (rest : List Micro) (hc : s.calm = true) (hf : s.fg = m :: rest)
    (hm : micro m (s.setFg rest) = .pending s1) (hi : s1.inputs = []) : run (n + 1) s = .next s1 := by
  simp [run, hf, State.dueNow_calm hc, hm, hi]

/-- A poll that is pending: the next input comes. -/
theorem run_input (n : Nat) (s s1 : State) (m : Micro) (rest : List Micro) (i : Input) (later : List Input)
    (hc : s.calm = true) (hf : s.fg = m :: rest) (hm : micro m (s.setFg rest) = .pending s1)
    (hi : s1.inputs = i :: later) :
    run (n + 1) s = andThen (occur i.event (s1.setInputs later)) (run n) := by
  simp [run, hf, State.dueNow_calm hc, hm, hi]

/-- A micro-step that stops the machine. -/
theorem run_fault (n : Nat) (s : State) (m : Micro) (rest : List Micro) (r : Fault) (hc : s.calm = true)
    (hf : s.fg = m :: rest) (hm : micro m (s.setFg rest) = .fault r) : run (n + 1) s = .fault r := by
  simp [run, hf, State.dueNow_calm hc, hm]

/-- A micro-step that is refused. -/
theorem run_refused (n : Nat) (s : State) (m : Micro) (rest : List Micro) (r : Refusal) (hc : s.calm = true)
    (hf : s.fg = m :: rest) (hm : micro m (s.setFg rest) = .refused r) : run (n + 1) s = .refused r := by
  simp [run, hf, State.dueNow_calm hc, hm]

/-- What a straight-line micro-step does depends on none of the micro-steps still to take. -/
theorem act_with_fg (a : Act) (s : State) (f : List Micro) :
    act a (s.setFg f) = ((act a s).setFg f) := by
  have hp : ∀ (t : State) (p : Nat) (g : HalPipe → HalPipe),
      State.onLive p g (t.setFg f) = ((State.onLive p g t).setFg f) := by
    intro t p g; simp only [State.onLive]
    have : State.live (t.setFg f) p = t.live p := rfl
    rw [this]; split <;> rfl
  have ht : ∀ (t : State) (p : Nat) (r : HalPipe → Bool) (g : HalPipe → HalPipe),
      State.onTaken p r g (t.setFg f) = ((State.onTaken p r g t).setFg f) := by
    intro t p r g; simp only [State.onTaken]
    have : State.takes (t.setFg f) p r = t.takes p r := rfl
    rw [this]; split <;> rfl
  have hh : ∀ (h : HalAction) (t : State), State.doHal h (t.setFg f) = ((State.doHal h t).setFg f) := by
    intro h t
    cases h <;> first | rfl | (simp only [State.doHal, halEffect]; first | exact hp (State.emit _ t) _ _ | exact ht (State.emit _ t) _ _ _)
  have hd : ∀ (p : Nat) (t : State), State.drawFree p (t.setFg f) = ((State.drawFree p t).setFg f) := by
    intro p t; simp only [State.drawFree]
    have h2 : State.readable (t.setFg f) p = t.readable p := rfl
    rw [h2]; split <;> rfl
  cases a
  case hal h => exact hh h s
  case fifoSetup k => exact hh _ s
  case fifoFromHost p b off => exact hh _ s
  case fifoFromJob p k => exact hh _ s
  case fifoToHost p b off =>
    simp only [act, State.fifoPop, hd, hh]
    rfl
  all_goals rfl

/-- A list of straight-line micro-steps runs at once. -/
theorem run_acts (l : List Act) (n : Nat) (s : State) (rest : List Micro) (hc : s.calm = true)
    (hf : s.fg = actSteps l ++ rest) : run (l.length + n) s = run n ((acts l s).setFg rest) := by
  induction l generalizing s with
  | nil =>
    simp only [actSteps, List.map_nil, List.nil_append] at hf
    simp only [List.length_nil, Nat.zero_add, acts]
    rw [← hf]; rfl
  | cons a l ih =>
    have hf' : s.fg = .act a :: (actSteps l ++ rest) := by rw [hf]; rfl
    have hm : micro (.act a) (s.setFg (actSteps l ++ rest)) =
        .ran ((act a s).setFg (actSteps l ++ rest)) := by simp only [micro, act_with_fg]
    have hc' : State.calm ((act a s).setFg (actSteps l ++ rest)) = true :=
      State.calm_of_inputs (by simp) hc
    have hlen : (a :: l).length + n = (l.length + n) + 1 := by simp only [List.length_cons]; omega
    rw [hlen, run_ran _ _ _ _ _ hc hf' hm, State.elapse_calm hc', ih _ hc' rfl]
    have hx : ∀ (l : List Act) (t : State) (f : List Micro), acts l (t.setFg f) = ((acts l t).setFg f) := by
      intro l; induction l with
      | nil => intro t f; rfl
      | cons b l ih => intro t f; simp only [acts, act_with_fg, ih]
    congr 1
    simp only [hx]
    rfl

/-- More fuel changes nothing for a run that has ended. -/
theorem run_mono (n k : Nat) (s t : State) (h : run n s = .next t) (ht : t.fg = []) : run (n + k) s = .next t := by
  induction n generalizing s with
  | zero =>
    simp only [run, Host.Outcome.next.injEq] at h
    subst h; exact run_done _ _ ht
  | succ n ih =>
    rw [Nat.succ_add]
    unfold run at h ⊢
    have hand : ∀ o : Host.Outcome State Fault Refusal, andThen o (run n) = .next t → andThen o (run (n + k)) = .next t := by
      intro o ho
      cases o with
      | next s1 => exact ih _ ho
      | fault r => exact ho
      | refused r => exact ho
    cases hfg : s.fg with
    | nil => simpa [hfg] using h
    | cons m rest =>
      simp only [hfg] at h ⊢
      cases hd : s.dueNow with
      | some x => simp only [hd] at h ⊢; exact hand _ h
      | none =>
        simp only [hd] at h ⊢
        cases hm : micro m (s.setFg rest) with
        | ran s1 => simp only [hm] at h ⊢; exact ih _ h
        | pending s1 =>
          simp only [hm] at h ⊢
          cases hi : s1.inputs with
          | nil => simpa [hi] using h
          | cons i later => simp only [hi] at h ⊢; exact hand _ h
        | fault r => simp [hm] at h
        | refused r => simp [hm] at h

/-- The induction over a run: a property that the micro-steps, the passing of a micro-step and the events of the
environment keep, holds of the state a run ends with. -/
theorem run_induct (P : State → Prop)
    (hran : ∀ s m rest s1, P s → s.fg = m :: rest → micro m (s.setFg rest) = .ran s1 → P s1.elapse)
    (hpend : ∀ s m rest s1, P s → s.fg = m :: rest → micro m (s.setFg rest) = .pending s1 → P s1)
    (hocc : ∀ s i later s1, P s → s.inputs = i :: later → occur i.event (s.setInputs later) = .next s1 → P s1)
    (n : Nat) (s t : State) (h : run n s = .next t) (hs : P s) : P t := by
  induction n generalizing s with
  | zero => simp only [run, Host.Outcome.next.injEq] at h; exact h ▸ hs
  | succ n ih =>
    unfold run at h
    have hand : ∀ (s i later), P s → s.inputs = i :: later →
        andThen (occur i.event (s.setInputs later)) (run n) = .next t → P t := by
      intro s i later hs hi ho
      cases hoc : occur i.event (s.setInputs later) with
      | next s1 => rw [hoc] at ho; exact ih _ ho (hocc s i later s1 hs hi hoc)
      | fault r => rw [hoc] at ho; simp [andThen] at ho
      | refused r => rw [hoc] at ho; simp [andThen] at ho
    cases hfg : s.fg with
    | nil => simp only [hfg, Host.Outcome.next.injEq] at h; exact h ▸ hs
    | cons m rest =>
      simp only [hfg] at h
      cases hd : s.dueNow with
      | some x =>
        obtain ⟨e, later⟩ := x
        simp only [hd] at h
        have hi : s.inputs = ⟨.after 0, e⟩ :: later := by
          unfold State.dueNow at hd
          split at hd
          · rename_i heq
            simp only [Option.some.injEq, Prod.mk.injEq] at hd
            rw [heq, hd.1, hd.2]
          · simp at hd
        exact hand s ⟨.after 0, e⟩ later hs hi h
      | none =>
        simp only [hd] at h
        cases hm : micro m (s.setFg rest) with
        | ran s1 => simp only [hm] at h; exact ih _ h (hran s m rest s1 hs hfg hm)
        | pending s1 =>
          simp only [hm] at h
          have hs1 := hpend s m rest s1 hs hfg hm
          cases hi : s1.inputs with
          | nil => simp only [hi, Host.Outcome.next.injEq] at h; exact h ▸ hs1
          | cons i later => simp only [hi] at h; exact hand s1 i later hs1 hi h
        | fault r => simp [hm] at h
        | refused r => simp [hm] at h

/-! ### The environment's events on a pipe -/

/-- An event of a pipe changes only what the HAL holds. -/
theorem State.raiseOn_eq (p : Nat) (f : HalPipe → HalPipe) (s : State) : s.raiseOn p f = s.setHal (s.raiseOn p f).hal := by
  unfold State.raiseOn
  split <;> rfl

/-- An event of a pipe changes that pipe, and only while `SOFGEN` is 1 (rule R474). -/
theorem State.raiseOn_halPipe (p q : Nat) (f : HalPipe → HalPipe) (s : State) :
    (s.raiseOn p f).halPipe q = if s.en.sofgen = true ∧ q = p then f (s.halPipe p) else s.halPipe q := by
  unfold State.raiseOn
  by_cases h : s.en.sofgen = true <;> simp [h, State.onPipe_halPipe]

/-- A received packet leaves a FIFO no longer than it was or than what is held of the packet. -/
theorem HalPipe.receive_fifo_le (held : List Byte) (n c : Nat) (h : HalPipe) (hh : held.length ≤ c) (hf : h.fifo.length ≤ c) :
    (h.receive held n).fifo.length ≤ c := by
  unfold HalPipe.receive
  split
  · exact hf
  · dsimp only
    split <;> assumption

/-- A packet the device has taken leaves a FIFO no longer than it was. -/
theorem HalPipe.bankFree_fifo_le (h : HalPipe) : h.bankFree.fifo.length ≤ h.fifo.length := by
  unfold HalPipe.bankFree
  split
  · exact Nat.zero_le _
  · exact Nat.le_refl _

/-- Construction keeps every FIFO and empties every interrupt set (rule R460). -/
@[simp] theorem Hal.masked_pipes (h : Hal) (p : Nat) :
    h.masked.pipes.getD p HalPipe.disabled = { h.pipes.getD p HalPipe.disabled with causes := Causes.none } := by
  simp only [Hal.masked, List.getD_eq_getElem?_getD, List.getElem?_map]
  cases h.pipes[p]? <;> rfl

/-- What a step that answers a next state did: it ran an operation presented, or went on. -/
theorem step_cases (s t : State) (h : step s = .next t) :
    (∃ w i, s.bus = some w ∧ decode w = .ok i ∧ exec i (s.setBus none) = .next t) ∨
      (s.bus = none ∧ goOn s = .next t) := by
  unfold step at h
  split at h
  · rename_i w hw
    split at h
    · rename_i i hi; exact .inl ⟨w, i, hw, hi, h⟩
    · simp at h
  · rename_i hb; exact .inr ⟨hb, h⟩

end Sys2Proof.Machine
end

