-- ==== Sys2Proof/Tests/Slice0.lean ====
section
/-! SUPPORT. Tests: ill-formed terms refused, every constructor's decoding from a word written out, one step of each
operation on a small state with the value the vectors of 95_test_vectors.md give, and for every statement of
Certificates/Slice0/Obligations.lean with hypotheses a state and operands that meet them all. -/

namespace Sys2Proof.Tests

-- Elaborated one after another: hundreds of theorems at once exhaust the threads the memory limit allows.
set_option Elab.async false

open Sys2Proof Sys2Proof.Machine

/-! ### Small states -/

/-- The next state of an operation, if it has one. -/
def after (i : Instr) (s : State) : Option State :=
  match exec i s with
  | .next t => some t
  | _ => none

/-- The refusal of an operation, if it is refused. -/
def refusal (i : Instr) (s : State) : Option Refusal :=
  match exec i s with
  | .refused r => some r
  | _ => none

/-- The operation a presented word decodes to, if it does. -/
def dec (w : Presented) : Option Instr :=
  match decode w with
  | .ok i => some i
  | .error _ => none

/-- An enabled pipe of the HAL with nothing pending. -/
def on : HalPipe := { HalPipe.disabled with on := true }

/-- `CFG-T` with short budgets. -/
def short : Config :=
  { Config.cfgT with
    ctrlSetupTimeout := 2, ctrlDataTimeout := 2, ctrlStatusTimeout := 2, delayTimeoutSof := 2, attachWindow := 2
    poweredCount := 2 }

/-- The end of P1, with short budgets: `Ready`, pipe 1 bulk IN, pipe 2 bulk OUT, pipe 3 interrupt IN. -/
def ready : State :=
  { State.reset with
    cfg := short
    ds := .ready
    en := { State.reset.en with sofgen := true, vbusen := true }
    ident := ⟨0x03EB#16, 0x2002#16, 1#7, 8⟩
    nsi := 1
    si := [⟨0#8, 0#8, 0x08#8, 0x06#8, 0x50#8, 2, [1#8, 2#8], true⟩]
    pipes := [controlPipe 8, ⟨true, .bulk, true, 1#4, 64, 1, 0#8, true⟩, ⟨true, .bulk, false, 2#4, 64, 1, 0#8, true⟩,
      ⟨true, .interrupt, true, 3#4, 8, 2, 10#8, true⟩, Pipe.unallocated, Pipe.unallocated, Pipe.unallocated]
    hal := { State.reset.hal with
      pipes := [on, on, on, on, HalPipe.disabled, HalPipe.disabled, HalPipe.disabled] } }

/-- The same state in another `DS`. -/
def at_ (d : DevState) : State := { ready with ds := d }

/-- The same state with these events scripted for the foreground's polls. -/
def scripted (s : State) (es : List Event) : State := { s with inputs := atWait es }

/-- The same state with a request in `ARG_SETUP`. -/
def asked (s : State) (r : Setup) : State := loadSetup r s

/-- The same state with `ARG_BUF`, `ARG_LEN` and `ARG_CB`. -/
def given (s : State) (buf : Nat) (len : Half) (cb : Nat) : State :=
  { s with args := { s.args with buf := buf, len := len, cb := cb } }

/-- Bytes from numbers. -/
def bytesOf (l : List Nat) : List Byte := l.map (BitVec.ofNat 8)

/-- The same state with these bytes at the start of `CACHE`, and their count in `CACHE_LEN`. -/
def cached (s : State) (l : List Nat) : State :=
  { s with
    cache := (List.range l.length).foldl (fun c k => Memory.write c k (BitVec.ofNat 8 (l.getD k 0))) []
    cacheLen := l.length }

/-- `DD-T` of 95_test_vectors.md. -/
def deviceDesc : List Nat :=
  [0x12, 0x01, 0x00, 0x02, 0x00, 0x00, 0x00, 0x08, 0xEB, 0x03, 0x02, 0x20, 0x00, 0x01, 0x01, 0x02, 0x03, 0x01]

/-- `CD-T` of 95_test_vectors.md. -/
def configDesc : List Nat :=
  [0x09, 0x02, 0x39, 0x00, 0x02, 0x01, 0x00, 0x80, 0x32] ++ [0x09, 0x04, 0x00, 0x00, 0x02, 0x08, 0x06, 0x50, 0x00] ++
  [0x07, 0x05, 0x81, 0x02, 0x40, 0x00, 0x00] ++ [0x07, 0x05, 0x02, 0x02, 0x40, 0x00, 0x00] ++
  [0x09, 0x04, 0x01, 0x00, 0x01, 0x03, 0x01, 0x01, 0x00] ++ [0x09, 0x21, 0x11, 0x01, 0x00, 0x01, 0x22, 0x3F, 0x00] ++
  [0x07, 0x05, 0x83, 0x03, 0x08, 0x00, 0x0A]

/-- Two interfaces of which the first is registered (rule R273): `CD-T` without its class-specific record. -/
def twoIfaces : List Nat :=
  [0x09, 0x02, 0x30, 0x00, 0x02, 0x01, 0x00, 0x80, 0x32] ++ [0x09, 0x04, 0x00, 0x00, 0x02, 0x08, 0x06, 0x50, 0x00] ++
  [0x07, 0x05, 0x81, 0x02, 0x40, 0x00, 0x00] ++ [0x07, 0x05, 0x02, 0x02, 0x40, 0x00, 0x00] ++
  [0x09, 0x04, 0x01, 0x00, 0x01, 0x03, 0x01, 0x01, 0x00] ++ [0x07, 0x05, 0x83, 0x03, 0x08, 0x00, 0x0A]

/-- An armed OUT job of 100 bytes with 64 in flight (V50), or an IN job of 128 bytes with 64 received (P3). -/
def jobOut : Job := ⟨true, false, 100, 0, 64, 1, 7, 3, 0, 0x00#8⟩
def jobIn : Job := ⟨true, true, 128, 64, 0, 2, 8, 1, 0, 0x00#8⟩

/-- `ready` with both jobs armed, `SOFIE` on. -/
def armed : State :=
  { ((ready.setJob 1 jobIn).setJob 2 jobOut) with en := { ready.en with sofie := true } }

/-- The same state with the HAL's pipe `p` changed. -/
def withPipe (s : State) (p : Nat) (f : HalPipe → HalPipe) : State := s.setHalPipe p (f (s.halPipe p))

/-! ### WellFormed -/

/-- The one check: a buffer select other than 0 and 1 (rule R127 (1)). -/
theorem test_illformed_select : WellFormed (.transferControl 2#8) = false := by decide
theorem test_wellformed_select : WellFormed (.transferControl 0#8) = true ∧ WellFormed (.transferControl 1#8) = true := by
  decide

/-! ### Decoding: the words of V-E1, V-E2 and V-E3 -/

theorem test_decode_fg :
    [0x00000000#32, 0x01000000#32, 0x01000100#32, 0x02020000#32, 0x03010000#32, 0x04020000#32, 0x05010000#32].map
      (fun w => dec (.cmd w)) =
    [some .tick, some (.transferControl 0#8), some (.transferControl 1#8), some (.sendData 2#8), some (.getData 1#8),
      some (.sendDataAsync 2#8), some (.getDataAsync 1#8)] := by decide
theorem test_decode_fg2 :
    (dec (.cmd 0x06000000#32), dec (.cmd 0x07000000#32), dec (.cmd 0x08000000#32), dec (.cmd 0x09010000#32),
      dec (.cmd 0x0A000000#32), dec (.cmd 0x0B000000#32)) =
    (some .suspend, some .resume, some .abortAllPipes, some (.pipeIsr 1#8), some .checkVidPid, some .checkClass) := by
  decide
theorem test_decode_queries :
    (dec (.cmd 0x10000000#32), dec (.cmd 0x11000000#32), dec (.cmd 0x12000000#32), dec (.cmd 0x13000000#32),
      dec (.cmd 0x14000000#32)) =
    (some .isHostReady, some .isHostSuspended, some .getVid, some .getPid, some .numSupportedInterfaces) := by decide
theorem test_decode_iface_queries :
    (dec (.cmd 0x15000000#32), dec (.cmd 0x16010000#32), dec (.cmd 0x17000000#32), dec (.cmd 0x18000100#32)) =
    (some (.interfaceClass 0#8), some (.interfaceSubclass 1#8), some (.interfaceProtocol 0#8),
      some (.interfacePipe 0#8 1#8)) := by decide
theorem test_decode_entries :
    (dec (.cmd 0x80000000#32), dec (.cmd 0x81000000#32), dec (.cmd 0x82000000#32), dec (.cmd 0x83000000#32),
      dec (.cmd 0x84000000#32)) =
    (some .evSof, some .evDisconnect, some .evRoleChange, some .evVbusError, some .evWakeup) := by decide
theorem test_decode_refused :
    [0x0C000000#32, 0x19000000#32, 0x7F000000#32, 0x85000000#32, 0xFF000000#32, 0x00000001#32, 0x10010000#32,
      0x15000100#32, 0x01000200#32].map (fun w => dec (.cmd w)) = List.replicate 9 none := by decide
theorem test_decode_get_descriptor :
    (dec (.setup 0x0040000001000680#64 true), dec (.setup 0x0012000001000680#64 false),
      dec (.setup 0x00FF000002000680#64 false), dec (.setup 0x0109000002010680#64 false)) =
    (some (.getDescriptorDevice 64#16 true), some (.getDescriptorDevice 18#16 false),
      some (.getDescriptorConfiguration 0#8 255#16), some (.getDescriptorConfiguration 1#8 0x0109#16)) := by decide
theorem test_decode_builders :
    (dec (.setup 0x00000000007F0500#64 false), dec (.setup 0x0000000000010900#64 false),
      dec (.setup 0x0000000100020B01#64 false), dec (.setup 0x0000000000010300#64 false),
      dec (.setup 0x0000008100000102#64 false), dec (.setup 0x0001000000000880#64 false)) =
    (some (.hostSetAddress 127#8), some (.setConfiguration 1#8), some (.setInterface 1#8 2#8),
      some .setFeatureRemoteWakeup, some (.clearFeatureEndpointHalt 0x81#8), some .getConfiguration) := by decide
/-- A side bit on a request other than the device descriptor's names no builder, and the bit-width is checked. -/
theorem test_decode_table_word :
    (decodeTableWord 32 0x09010000, decodeTableWord 64 0x0000000000010900, decodeTableWord 16 0,
      dec (.setup 0x0000000000010900#64 true)) =
    (some (.pipeIsr 1#8), some (.setConfiguration 1#8), none, none) := by decide

/-! ### TICK -/

/-- V01. -/
theorem test_tick_unattached :
    (after .tick { State.reset with hal := { State.reset.hal with vbusHigh := true } }).map
      (fun t => (t.ds, t.en.vbusen, t.en.discIe, t.trace)) = some (.attached, true, true, [Output.hal .enableVbus]) := by
  decide +kernel
/-- V08: the first fetch STALLed, with one error already counted. -/
theorem test_tick_default_gives_up :
    (after .tick (scripted { at_ .default with cnt := ⟨0, 0, 0, 1⟩ } (frame ++ [Event.stall 0]))).map
      (fun t => (t.ds, t.cnt.errcnt, t.flags.rearm)) = some (.error, 2, false) := by decide +kernel

/-! ### TRANSFER_CONTROL -/

/-- V21: the short packet ends the stage although 64 bytes were asked for. -/
theorem test_transferControl_short :
    (after (.transferControl 0#8) (scripted (asked ready (reqGetDescriptorDevice 64#16 false))
      (frame ++ [Event.setupAck 0, .inPacket 0 (bytesOf (deviceDesc.take 8)), .inPacket 0 (bytesOf ((deviceDesc.drop 8).take 8)),
        .inPacket 0 (bytesOf (deviceDesc.drop 16)), .outReady 0]))).map
      (fun t => (t.res.status, t.cacheLen, t.cacheByte 8, t.cacheByte 17, t.fg.length)) =
    some (0x00#8, 18, 0xEB#8, 0x01#8, 0) := by decide +kernel
/-- V27: a CRC error in the second IN wait. -/
theorem test_transferControl_crc :
    (after (.transferControl 0#8) (scripted (asked ready (reqGetDescriptorDevice 18#16 false))
      (frame ++ [Event.setupAck 0, .inPacket 0 (bytesOf (deviceDesc.take 8)), .pipeError 0 0x10#5]))).map
      (fun t => (t.res.status, t.cacheLen, t.trace.take 2)) =
    some (0x10#8, 8, [Output.hal (.resetPipe 0), .hal (.ackErrors 0)]) := by decide +kernel

/-! ### SEND_DATA and GET_DATA -/

/-- V40: 66 bytes are a packet of 64 and one of 2. -/
theorem test_sendData_packets :
    (after (.sendData 2#8) (scripted (given ready 1 66#16 0) [Event.outReady 2, .outReady 2])).map
      (fun t => (t.res.status, (t.trace.filter (· == .hal (.sendOut 2))).length, t.en.sofie, (t.pipe 2).frozen)) =
    some (0x00#8, 2, false, true) := by decide +kernel
/-- V42: the third NAK ends SEND_DATA. -/
theorem test_sendData_nak :
    (after (.sendData 2#8) (scripted (given ready 1 66#16 0) [Event.nak 2, .nak 2, .nak 2])).map
      (fun t => (t.res.status, t.cnt.nakcnt)) = some (0x40#8, 3) := by decide +kernel
/-- V41: `ARG_LEN` 10 and a packet of 64: ten stored, the rest dropped. -/
theorem test_getData_excess :
    (after (.getData 1#8) (scripted (given ready 5 10#16 0) [Event.inPacket 1 (bytesOf ((List.range 64).map (· + 1)))])).map
      (fun t => (t.res.status, t.res.len, t.hostByte 5 0, t.hostByte 5 9, t.hostByte 5 10)) =
    some (0x00#8, 10#16, 1#8, 10#8, 0#8) := by decide +kernel
/-- V48: a pipe error goes before a STALL. -/
theorem test_getData_priority :
    (after (.getData 1#8) (scripted (withPipe (given ready 5 10#16 0) 1 fun h => { h with stall := true })
      [])).map (fun t => t.res.status) = some 0x20#8 ∧
    (after (.getData 1#8) (scripted (withPipe (given ready 5 10#16 0) 1 fun h => { h with stall := true, error := 1#5 })
      [])).map (fun t => t.res.status) = some 0x01#8 := by decide +kernel

/-! ### The asynchronous pump -/

/-- V50, arming. -/
theorem test_sendDataAsync_arms :
    (after (.sendDataAsync 2#8) (given ready 1 100#16 7)).map
      (fun t => (t.res.bool, t.job 2, t.en.sofie, t.trace.head?)) =
    some (true, jobOut, true, some (.hal (.enablePipeInt 2 ⟨true, true, true, true⟩))) := by decide +kernel
/-- V5B: an IN pipe, a free pipe, pipe 0 and pipe 7. -/
theorem test_sendDataAsync_refused :
    [1#8, 4#8, 0#8, 7#8].map (fun p => refusal (.sendDataAsync p) ready) = List.replicate 4 (some .badPipe) := by
  decide +kernel
/-- V52: a busy pipe. -/
theorem test_getDataAsync_busy :
    (after (.getDataAsync 1#8) (given armed 9 512#16 9)).map (fun t => (t.res.bool, t.job 1, t.trace)) =
    some (false, jobIn, []) := by decide +kernel
/-- V59: no NAK cause on an interrupt pipe. -/
theorem test_getDataAsync_interrupt :
    (after (.getDataAsync 3#8) (given ready 9 8#16 9)).map (fun t => ((t.job 3).nak, t.trace.head?)) =
    some (4, some (.hal (.enablePipeInt 3 ⟨true, true, true, false⟩))) := by decide +kernel
/-- V57. -/
theorem test_abortAllPipes :
    (after .abortAllPipes armed).map (fun t => (t.anyArmed, t.en.sofie, t.trace.reverse)) =
    some (false, false, [Output.hal (.disablePipeInt 1), .hal (.resetPipe 1), .callback 8 0xFF#8 64, .hal (.disablePipeInt 2),
      .hal (.resetPipe 2), .callback 7 0xFF#8 0]) := by decide +kernel
/-- V53: the NAK that brings the budget to 0. -/
theorem test_pipeIsr_nak :
    (after (.pipeIsr 1#8) (withPipe armed 1 fun h => { h with nak := true })).map
      (fun t => ((t.job 1).enabled, (t.job 1).status, t.en.sofie, t.trace.head?)) =
    some (false, 0x40#8, true, some (.callback 8 0x40#8 64)) := by decide +kernel
/-- V50: the packet of 64 is counted and 36 bytes are primed. -/
theorem test_pipeIsr_out :
    (after (.pipeIsr 2#8) (withPipe armed 2 fun h => { h with outReady := true })).map
      (fun t => ((t.job 2).processed, (t.job 2).inflight, t.trace.head?)) =
    some (64, 36, some (.hal (.sendOut 2))) := by decide +kernel

/-! ### Latches, checks, queries -/

/-- V16, V17. -/
theorem test_suspend :
    ((after .suspend ready).map (·.flags.suspReq), (after .suspend (at_ .addressed)).map (·.flags.suspReq)) =
    (some true, some false) := by decide +kernel
theorem test_resume :
    ((after .resume (at_ .waitResume)).map (·.flags.resumeReq), (after .resume ready).map (·.flags.resumeReq)) =
    (some true, some false) := by decide +kernel
/-- V38. -/
theorem test_checkVidPid :
    ((after .checkVidPid (cached ready deviceDesc)).map (·.res.bool),
      (after .checkVidPid (cached ready (deviceDesc.take 10 ++ [0x40, 0x57]))).map (·.res.bool)) =
    (some true, some false) := by decide +kernel
/-- V30: the end of the walk over `CD-T`. -/
theorem test_checkClass :
    (after .checkClass (cached ready configDesc)).map (fun t => (t.res.bool, t.nsi, t.iface 0)) =
    some (true, 1, ⟨0#8, 0#8, 0x08#8, 0x06#8, 0x50#8, 2, [1#8, 2#8], true⟩) := by decide +kernel
/-- V30, V34: seven hook calls for all of it, three for its first 30 bytes, and then the entry is not configured. -/
theorem test_checkClass_truncated :
    ((after .checkClass (cached ready configDesc)).map
        (fun t => t.trace.reverse.filterMap (fun o => match o with | .hook k => some k | _ => none)),
      (after .checkClass (cached ready (configDesc.take 30))).map (fun t => ((t.iface 0).configured, (t.iface 0).pipe))) =
    (some [0, 9, 18, 25, 32, 41, 50], some (false, [1#8, 0xFF#8])) := by decide +kernel
/-- V60. -/
theorem test_isHostReady :
    ((after .isHostReady ready).map (·.res.bool), (after .isHostReady (at_ .suspended)).map (·.res.bool)) =
    (some true, some false) := by decide +kernel
theorem test_isHostSuspended :
    ((after .isHostSuspended (at_ .waitResume)).map (·.res.bool), (after .isHostSuspended ready).map (·.res.bool)) =
    (some true, some false) := by decide +kernel
/-- V61. -/
theorem test_ids :
    ((after .getVid ready).map (·.res.val), (after .getPid ready).map (·.res.val),
      (after .numSupportedInterfaces ready).map (·.res.val)) = (some 0x03EB#16, some 0x2002#16, some 1#16) := by
  decide +kernel
theorem test_interface_fields :
    ((after (.interfaceClass 0#8) ready).map (·.res.val), (after (.interfaceSubclass 0#8) ready).map (·.res.val),
      (after (.interfaceProtocol 0#8) ready).map (·.res.val), (after (.interfacePipe 0#8 1#8) ready).map (·.res.val)) =
    (some 0x0008#16, some 0x0006#16, some 0x0050#16, some 0x0002#16) := by decide +kernel
theorem test_interface_refused :
    (refusal (.interfaceClass 1#8) ready, refusal (.interfacePipe 0#8 2#8) ready) =
    (some .queryIndex, some .queryIndex) := by decide +kernel

/-! ### Interrupt entries -/

/-- V70. -/
theorem test_evSof :
    ((after .evSof { ready with cnt := ⟨7, 0, 0, 0⟩ }).map (fun t => (t.flags.evtSof, t.cnt.tmo)),
      (after .evSof { armed with cnt := ⟨0xFFFF, 0, 0, 0⟩ }).map (fun t => (t.cnt.tmo, (t.job 2).timeoutCnt,
        (t.job 3).timeoutCnt))) = (some (true, 7), some (0xFFFF, 1, 0)) := by decide +kernel
/-- V71. -/
theorem test_evDisconnect :
    (after .evDisconnect { armed with hal := { armed.hal with disc := true } }).map
      (fun t => (t.ds, t.flags.emerg, t.nsi, t.hal.disc, t.trace.head?)) =
    some (.unattached, true, 0, false, some (.hal (.disablePipe 3))) := by decide +kernel
/-- V72. -/
theorem test_evRoleChange :
    (after .evRoleChange ready).map (fun t => (t.ds, t.trace.getLast?)) =
    some (.unattached, some (.hal .ackRoleChange)) := by decide +kernel
theorem test_evVbusError :
    ((after .evVbusError ready).map (·.ds), (after .evVbusError { ready with cfg := { short with hasVbusLow := true } }).map
      (·.ds)) = (some .unattached, some .vbusLow) := by decide +kernel
/-- V73. -/
theorem test_evWakeup :
    (after .evWakeup (at_ .waitResume)).map (fun t => (t.flags.wakeEvt, t.trace)) =
    some (true, [Output.hal .ackWakeup]) := by decide +kernel

/-! ### Request builders: V-E3 -/

theorem test_builders_descriptor :
    ((after (.getDescriptorDevice 64#16 true) ready).map (fun t => (t.args.setup, t.args.incomplete)),
      (after (.getDescriptorConfiguration 1#8 0x0109#16) ready).map (·.args.setup)) =
    (some (0x0040000001000680#64, true), some 0x0109000002010680#64) := by decide +kernel
theorem test_builders_set :
    ((after (.hostSetAddress 127#8) ready).map (·.args.setup), (after (.setConfiguration 1#8) ready).map (·.args.setup),
      (after (.setInterface 1#8 2#8) ready).map (·.args.setup)) =
    (some 0x00000000007F0500#64, some 0x0000000000010900#64, some 0x0000000100020B01#64) := by decide +kernel
theorem test_builders_feature :
    ((after .setFeatureRemoteWakeup ready).map (·.args.setup),
      (after (.clearFeatureEndpointHalt 0x81#8) ready).map (·.args.setup), (after .getConfiguration ready).map (·.args.setup)) =
    (some 0x0000000000010300#64, some 0x0000008100000102#64, some 0x0001000000000880#64) := by decide +kernel

/-! ### The step -/

/-- A presented word is taken and run; one that names nothing is refused. -/
theorem test_step_runs :
    (match step (ready.withFetchWord 32 0x10000000) with | .next t => (t.res.bool, t.bus) | _ => (false, none)) =
      (true, none) ∧
    (match step (ready.withFetchWord 32 0x0C000000) with | .refused r => some r | _ => none) =
      some (.illegalWord .unknownOp) := by decide +kernel
/-- V19: a disconnect in the middle of a transfer ends the TICK with `DS` where the entry put it. -/
theorem test_step_disconnect_in_transfer :
    (match step ((scripted { at_ .addressed with hal := { ready.hal with lowSpeed := false } }
        (frame ++ [Event.setupAck 0, .inPacket 0 (bytesOf (deviceDesc.take 8)), .disc, .irq])).withFetchWord 32 0) with
      | .next t => (t.ds, t.flags.emerg, t.fg.length, t.en.sofie)
      | _ => (.error, false, 1, true)) = (.unattached, true, 0, false) := by decide +kernel

/-! ### The environment and the HAL's side -/

/-- R324 (1): a packet is accepted, then the bus is lost; the packet counts, and the next wait ends with `Timeout`. -/
theorem test_ready_then_disconnect :
    (after (.sendData 2#8) { given ready 1 66#16 0 with
        hal := { ready.hal with disc := true }
        inputs := [⟨.atWait, .outReady 2⟩, ⟨.after 0, .irq⟩] }).map
      (fun t => (t.res.status, t.fg.length, t.ds, (t.trace.filter (· == .hal (.ackOut 2))).length)) =
    some (0x08#8, 0, .unattached, 1) := by decide +kernel
/-- R422, R477 (7): on a disabled pipe an ack has no effect, whatever it acknowledges; R324 (1): while `EMERG` is 1 the ack of
a ready signal that is set has. -/
theorem test_acks_on_disabled_pipe :
    let s := fun lost => { withPipe ready 2 (fun h => { h with on := false, outReady := true, stall := true }) with
      flags := { ready.flags with emerg := lost } }
    ((s false).doHal (.ackOut 2)).hal = (s false).hal ∧ ((s true).doHal (.ackStall 2)).hal = (s true).hal ∧
    ((s true).doHal (.ackIn 2)).hal = (s true).hal ∧ (((s true).doHal (.ackOut 2)).halPipe 2).outReady = false := by
  decide +kernel
/-- R344: a job that is armed anew between two FIFO writes of `PrimeOut` in the foreground gives the next byte. -/
theorem test_prime_reads_the_job :
    (acts [.fifoFromJob 2 0] (armed.setHostByte 1 0 0x11#8)).trace = [Output.hal (.fifoWrite 2 0x11#8)] ∧
    (acts [.fifoFromJob 2 0] ((armed.setHostByte 1 0 0x11#8).setJob 2 { jobOut with buf := 9 })).trace =
      [Output.hal (.fifoWrite 2 0x00#8)] := by decide +kernel
/-- R421, R451: a start of frame that is pending when `SOFGEN` becomes 0 is never presented. -/
theorem test_pending_sof_goes :
    (after .tick { at_ .suspended with hal := { ready.hal with sof := true } }).map
      (fun t => (t.en.sofgen, t.hal.sof, t.pendingSource)) = some (false, false, none) := by decide +kernel
/-- R460: construction empties the interrupt set of an armed pipe and issues nothing. R91: a buffer of an armed job is not
the application's. -/
theorem test_construct_and_buffers :
    (match occur .construct (withPipe armed 2 fun h => { h with causes := ⟨true, true, true, true⟩ }) with
      | .next t => ((t.halPipe 2).causes, (t.job 2).enabled, t.trace)
      | _ => (⟨true, true, true, true⟩, true, [])) = (Causes.none, false, []) ∧
    (match occur (.hostWrite 1 0 [1#8]) armed with | .refused r => some r | _ => none) = some .bufferInUse ∧
    (match occur (.hostWrite 1 0 [1#8]) ready with | .next t => some (t.hostByte 1 0) | _ => none) = some 1#8 := by
  decide +kernel

/-! ### Witnesses: a state and operands that meet every hypothesis of a statement, one for each of its clauses -/

/-- `ready` with the environment and the application silent is what most statements start from. -/
theorem ready_quiet : Quiet ready := ⟨rfl, rfl, rfl⟩

theorem ready_legal : ready.cfg.legal = true := by decide

/-- The packet of pump 2 (OUT) and pump 1 (IN). -/
theorem ready_pumpOut (a : Args) (is : List Input) : PumpReady { ready with args := a, inputs := is } 2 false :=
  ⟨rfl, Nat.succ_pos _, (by decide : 2 < 7), rfl, rfl, rfl, rfl, rfl, rfl, rfl, rfl, rfl, rfl, rfl, Nat.succ_pos 1⟩
theorem ready_pumpIn (a : Args) (is : List Input) : PumpReady { ready with args := a, inputs := is } 1 true :=
  ⟨rfl, Nat.succ_pos _, (by decide : 1 < 7), rfl, rfl, rfl, rfl, rfl, rfl, rfl, rfl, rfl, rfl, rfl, Nat.succ_pos 1⟩

theorem test_witness_DecodeOfEncode : WellFormed (.transferControl 1#8) = true := by decide
theorem test_witness_EncodeOfDecode : decode (.cmd 0x18000100#32) = .ok (.interfacePipe 0#8 1#8) := by rfl
/-- No such `op`; `z` not 0; an unused `a`; an unused `b`; a select of 2; and the last legal select. -/
theorem test_witness_IllegalWordsRefused :
    ({ ready with bus := some (.cmd (0x0C#8 ++ 0#8 ++ 0#8 ++ 0#8)) } : State).bus = some (.cmd 0x0C000000#32) ∧
    illegalFields 0x0C#8 0#8 0#8 0#8 ∧ illegalFields 0x00#8 0#8 0#8 1#8 ∧ illegalFields 0x10#8 1#8 0#8 0#8 ∧
    illegalFields 0x15#8 0#8 1#8 0#8 ∧ illegalFields 0x01#8 0#8 2#8 0#8 ∧ ¬ illegalFields 0x01#8 0#8 1#8 0#8 ∧
    ¬ illegalFields 0x18#8 255#8 255#8 0#8 := by
  unfold illegalFields
  exact ⟨rfl, by decide, by decide, by decide, by decide, by decide, by decide, by decide⟩
theorem test_witness_StepRunsDecoded :
    (ready.withFetchWord 32 0x06000000).bus = some (.cmd 0x06000000#32) ∧
    dec (.cmd 0x06000000#32) = some .suspend ∧ (ready.bus = none ∧ ready.fg = [] ∧ ready.inputs = []) := by decide
theorem test_witness_InterfaceQueries : (0#8).toNat < ready.nsi ∧ (1#8).toNat < (ready.iface 0).nbEp := by decide
theorem test_witness_QueriesOutOfRange : ready.nsi ≤ (1#8).toNat ∧ (ready.iface (0#8).toNat).nbEp ≤ (2#8).toNat := by decide
theorem test_witness_SuspendResumeLatch :
    ready.ds = .ready ∧ (at_ .suspended).ds ≠ .ready ∧
    ((at_ .suspended).ds = .suspended ∨ (at_ .suspended).ds = .waitResume) ∧
    ((at_ .waitResume).ds = .suspended ∨ (at_ .waitResume).ds = .waitResume) ∧
    ¬ (ready.ds = .suspended ∨ ready.ds = .waitResume) := by decide
theorem test_witness_CheckVidPidMembership : (cached ready deviceDesc).fg = [] ∧ ready.fg = [] := by decide
/-- A full cache and an empty one; and the descriptor of two interfaces, with automatic endpoint configuration and room for
one and for two entries, and without it. -/
theorem test_witness_CheckClassReturns :
    let s := fun auto n => { cached ready twoIfaces with cfg := { short with autoCfgEndpoint := auto, maxInterface := n } }
    (Quiet ready ∧ ready.cfg.legal = true ∧ ready.cacheLen ≤ ready.cfg.sizeofDataStage ∧
      ({ ready with cacheLen := 255 } : State).cacheLen ≤ ready.cfg.sizeofDataStage) ∧
    ∀ x ∈ [(true, 1), (true, 2), (false, 2)],
      Quiet (s x.1 x.2) ∧ (s x.1 x.2).cfg.legal = true ∧ (s x.1 x.2).cacheLen ≤ (s x.1 x.2).cfg.sizeofDataStage ∧
      OneOfTwoMatches (s x.1 x.2) ∧ 48 ≤ (s x.1 x.2).cacheLen ∧ 2 ≤ (s x.1 x.2).cfg.maxEp ∧
      (s x.1 x.2).cfg.autoCfgEndpoint = x.1 ∧ 3 ≤ (s x.1 x.2).cfg.nPipes ∧
      (s x.1 x.2).sizeAt 18 ≤ (s x.1 x.2).cfg.smallCap ∧ (s x.1 x.2).sizeAt 25 ≤ (s x.1 x.2).cfg.smallCap := by
  refine ⟨⟨ready_quiet, ready_legal, by decide, by decide⟩, ?_⟩
  unfold Quiet OneOfTwoMatches RecordAt
  decide +kernel
theorem test_witness_CheckClassNoMatch :
    Quiet ready ∧ ready.cfg.legal = true ∧ ready.cacheLen ≤ ready.cfg.sizeofDataStage ∧
    (∀ off, (ready.cacheByte (off + 5), ready.cacheByte (off + 6), ready.cacheByte (off + 7)) ∉ ready.tables.classes) :=
  ⟨ready_quiet, ready_legal, by decide, fun _ => by
    show ((0#8, 0#8, 0#8) : Byte × Byte × Byte) ∉ ready.tables.classes
    decide⟩
/-- A size of 64 is not above `SMALL_CAP`, one of 65 is. -/
theorem test_witness_PipeChoice :
    ready.cfg.legal = true ∧ ready.cfg.smallCap < 65 ∧ 64 ≤ ready.cfg.smallCap ∧ choosePipe ready 64 = some 4 ∧
    choosePipe ready 65 = some 5 ∧ choosePipe { ready with pipes := List.replicate 7 (controlPipe 8) } 64 = none := by decide
theorem test_witness_TickUnattached :
    (at_ .unattached).fg = [] ∧ (at_ .unattached).inputs = [] ∧ (at_ .unattached).ds = .unattached := by decide
/-- One state for each clause; in `Powered`, the frame that completes the count. -/
theorem test_witness_TickWithoutWaiting :
    ready.fg = [] ∧ ready.inputs = [] ∧
    ((at_ .attached).ds = .attached ∧ (at_ .attached).hal.conn = false ∧ (at_ .attached).flags.rearm = false) ∧
    (let s := { at_ .powered with flags := { ready.flags with evtSof := true }, cnt := ⟨0, 0, 1, 0⟩ }
     s.ds = .powered ∧ s.cnt.sofcnt + 1 = s.cfg.poweredCount) ∧
    (at_ .ready).ds = .ready ∧ (at_ .error).ds = .error ∧ (at_ .unsupported).ds = .unsupported ∧
    ((at_ .waitResume).ds = .waitResume ∧ (at_ .waitResume).flags.wakeEvt = false ∧
      (at_ .waitResume).flags.resumeReq = false) ∧ (at_ .vbusLow).ds = .vbusLow := by decide
theorem test_witness_TickSuspended :
    (at_ .suspended).fg = [] ∧ (at_ .suspended).inputs = [] ∧ (at_ .suspended).ds = .suspended := by decide
theorem test_witness_TickResumes :
    let s := scripted { at_ .waitResume with flags := { ready.flags with resumeReq := true } } [Event.resumeSent]
    s.fg = [] ∧ s.inputs = atWait [Event.resumeSent] ∧ s.ds = .waitResume ∧
    (s.flags.wakeEvt = true ∨ s.flags.resumeReq = true) ∧ s.hal.resumeSent = false ∧ s.flags.emerg = false := by decide
theorem test_witness_TickAttachedReachesPowered :
    let s := scripted { at_ .attached with hal := { ready.hal with conn := true } } (Event.resetting false :: frames 2)
    s.fg = [] ∧ s.ds = .attached ∧ s.hal.conn = true ∧ s.flags.emerg = false ∧ OnlySof s ∧ s.cfg.legal = true ∧
    s.jobs.length = s.cfg.nPipes ∧ s.anyArmed = false ∧
    s.inputs = atWait (Event.resetting false :: frames s.cfg.attachWindow) := by
  unfold OnlySof
  decide
/-- With `DEVICE_DEFAULT_MAX_ERROR_COUNT` 2: the second error, and the first. -/
theorem test_witness_FirstFetchRetry :
    let s := fun n => scripted { at_ .default with cnt := ⟨0, 0, 0, n⟩ } (frame ++ [Event.stall 0])
    ControlReady (s 0) ∧ ControlReady (s 1) ∧ (s 0).cfg.legal = true ∧ (s 0).ds = .default ∧
    (s 0).inputs = atWait (frame ++ [Event.stall 0]) ∧ (s 1).cfg.maxErrorCount ≤ (s 1).cnt.errcnt + 1 ∧
    (s 0).cnt.errcnt + 1 < (s 0).cfg.maxErrorCount :=
  ⟨(by unfold ControlReady OnlySof; decide +kernel), (by unfold ControlReady OnlySof; decide +kernel), ready_legal, rfl, rfl, by decide +kernel, by decide +kernel⟩
theorem test_witness_TickDefaultAddresses :
    let bytes := bytesOf (deviceDesc.take 8)
    let s := scripted (at_ .default) (frame ++ [Event.setupAck 0, .inPacket 0 bytes, .outReady 0, .resetting false] ++ frame ++
      [Event.setupAck 0, .inPacket 0 []])
    ControlReady s ∧ s.plan = [] ∧ s.cfg.legal = true ∧ Memory.wf s.cache = true ∧ s.ds = .default ∧ s.anyArmed = false ∧
    8 ≤ bytes.length ∧ bytes.length ≤ s.cfg.cap 0 ∧ legalMps (bytes.getD 7 0#8).toNat = true ∧
    s.inputs = atWait (frame ++ [Event.setupAck 0, .inPacket 0 bytes, .outReady 0, .resetting false] ++ frame ++
      [Event.setupAck 0, .inPacket 0 []]) :=
  ⟨(by unfold ControlReady OnlySof; decide +kernel), rfl, ready_legal, rfl, rfl, rfl, by decide +kernel, by decide +kernel, by decide +kernel, by decide +kernel⟩
/-- `CTRL_MPS` 8 in three packets on a low-speed link, 16 in two, 64 in one with bytes in excess. -/
theorem test_witness_TickAddressedIdentifies :
    let dd := bytesOf deviceDesc
    let s := fun mps low full last => scripted { at_ .addressed with
        ident := { ready.ident with ctrlMps := mps }, hal := { ready.hal with lowSpeed := low } }
      (frame ++ [Event.setupAck 0] ++ arrivals 0 low full last ++ [Event.outReady 0])
    ∀ x ∈ [(8, true, [dd.take 8, (dd.drop 8).take 8], dd.drop 16), (16, false, [dd.take 16], dd.drop 16),
        (64, false, [], dd ++ [1#8])],
      let t := s x.1 x.2.1 x.2.2.1 x.2.2.2
      ControlReady t ∧ t.cfg.legal = true ∧ Memory.wf t.cache = true ∧ t.ds = .addressed ∧ legalMps t.ident.ctrlMps = true ∧
      EndsStage t.ident.ctrlMps 18 (t.cfg.cap 0) x.2.2.1 x.2.2.2 ∧ 18 ≤ x.2.2.1.flatten.length + x.2.2.2.length ∧
      t.inputs = atWait (frame ++ [Event.setupAck 0] ++ arrivals 0 t.hal.lowSpeed x.2.2.1 x.2.2.2 ++ [Event.outReady 0]) := by
  unfold ControlReady OnlySof EndsStage
  decide +kernel
/-- With `CD-T`, in eight packets on a low-speed link or in one, the run ends in `Ready`; with an empty packet in
`Unsupported`. -/
theorem test_witness_TickConfiguredDecides :
    let cd := bytesOf configDesc
    let script := fun low full last => frame ++ [Event.setupAck 0] ++ arrivals 0 low full last ++ [Event.outReady 0] ++
      frame ++ [Event.setupAck 0, .inPacket 0 []]
    let s := fun mps low full last => scripted { at_ .configured with
      ident := { ready.ident with ctrlMps := mps }, hal := { ready.hal with lowSpeed := low } } (script low full last)
    let eighths := (List.range 7).map fun k => (cd.drop (8 * k)).take 8
    (∀ x ∈ [(8, true, eighths, cd.drop 56), (64, false, [], cd), (64, false, [], [])],
      let t := s x.1 x.2.1 x.2.2.1 x.2.2.2
      ControlReady t ∧ t.plan = [] ∧ t.cfg.legal = true ∧ Memory.wf t.cache = true ∧ t.ds = .configured ∧
      legalMps t.ident.ctrlMps = true ∧
      EndsStage t.ident.ctrlMps (min t.cfg.sizeofDataStage 0xFFFF) (t.cfg.cap 0) x.2.2.1 x.2.2.2 ∧
      t.inputs = atWait (script t.hal.lowSpeed x.2.2.1 x.2.2.2)) ∧
    (after .tick (s 8 true eighths (cd.drop 56))).map (fun t => (t.nsi, t.ds)) = some (1, .ready) ∧
    (after .tick (s 64 false [] [])).map (fun t => (t.nsi, t.ds)) = some (0, .unsupported) := by
  unfold ControlReady OnlySof EndsStage
  decide +kernel
theorem test_witness_TickEndsOnEmergency :
    let s := fun d => { at_ d with flags := { ready.flags with emerg := true } }
    ∀ d ∈ [DevState.default, .addressed, .configured], Quiet (s d) ∧ (s d).cfg.legal = true ∧ (s d).flags.emerg = true ∧
      ((s d).ds = .default ∨ (s d).ds = .addressed ∨ (s d).ds = .configured) := by
  unfold Quiet
  decide
/-- No data stage with bit 7 of `bmRequestType` clear and set, and both buffer selects. -/
theorem test_witness_ControlNoData :
    let s := fun r e => scripted (asked ready r) (frame ++ [Event.setupAck 0, e])
    ((0#8 : BitVec 8) = 0#8 ∨ (0#8 : BitVec 8) = 1#8) ∧ ((1#8 : BitVec 8) = 0#8 ∨ (1#8 : BitVec 8) = 1#8) ∧
    ∀ x ∈ [(reqSetAddress 1#8, Event.inPacket 0 []), (reqGetDescriptorDevice 0#16 false, Event.outReady 0)],
      let t := s x.1 x.2
      ControlReady t ∧ t.request.wLength = 0#16 ∧
      t.inputs = atWait (frame ++ [Event.setupAck 0,
        if t.request.bmRequestType.getLsbD 7 then .outReady 0 else .inPacket 0 []]) := by
  unfold ControlReady OnlySof
  decide +kernel
/-- A short packet; a full packet with `incomplete_read`; a full packet that is all that was asked for; each into `CACHE`
and into a host buffer. -/
theorem test_witness_ControlReadOnePacket :
    let s := fun n inc l => scripted (given (asked ready (reqGetDescriptorDevice n inc)) 3 64#16 0)
      (frame ++ [Event.setupAck 0, .inPacket 0 l, .outReady 0])
    let full := bytesOf (deviceDesc.take 8)
    ∀ b ∈ [0#8, 1#8], ∀ x ∈ [(18#16, false, bytesOf [1, 2]), (64#16, true, full), (8#16, false, full)],
      let t := s x.1 x.2.1 x.2.2
      (b = 0#8 ∨ b = 1#8) ∧ ControlReady t ∧ Memory.wf t.cache = true ∧ Memory.wf t.hbuf = true ∧
      t.request.bmRequestType.getLsbD 7 = true ∧ 0 < t.request.wLength.toNat ∧
      t.request.wLength.toNat ≤ (bufferOperand b t.args).capacity t.cfg ∧ x.2.2.length ≤ t.cfg.cap 0 ∧
      (x.2.2.length < t.ident.ctrlMps ∨ t.request.incompleteRead = true ∨ t.request.wLength.toNat ≤ x.2.2.length) ∧
      t.inputs = atWait (frame ++ [Event.setupAck 0, .inPacket 0 x.2.2, .outReady 0]) := by
  unfold ControlReady OnlySof
  decide +kernel
/-- Two full packets and a short one into `CACHE`, also on a low-speed link; one packet with bytes in excess into a host
buffer. -/
theorem test_witness_ControlReadRoundTrip :
    let full := [bytesOf (deviceDesc.take 8), bytesOf ((deviceDesc.drop 8).take 8)]
    let last := bytesOf (deviceDesc.drop 16)
    let s := fun low n full last => scripted
      { given (asked ready (reqGetDescriptorDevice n false)) 3 64#16 0 with hal := { ready.hal with lowSpeed := low } }
      (frame ++ [Event.setupAck 0] ++ arrivals 0 low full last ++ [Event.outReady 0])
    ∀ x ∈ [(0#8, false, 18#16, full, last), (0#8, true, 18#16, full, last), (1#8, false, 5#16, [], full.head!)],
      let t := s x.2.1 x.2.2.1 x.2.2.2.1 x.2.2.2.2
      (x.1 = 0#8 ∨ x.1 = 1#8) ∧ ControlReady t ∧ Memory.wf t.cache = true ∧ Memory.wf t.hbuf = true ∧ t.cfg.legal = true ∧
      legalMps t.ident.ctrlMps = true ∧ t.request.bmRequestType.getLsbD 7 = true ∧ t.request.incompleteRead = false ∧
      t.request.wLength.toNat ≤ (bufferOperand x.1 t.args).capacity t.cfg ∧
      EndsStage t.ident.ctrlMps t.request.wLength.toNat (t.cfg.cap 0) x.2.2.2.1 x.2.2.2.2 ∧
      t.inputs = atWait (frame ++ [Event.setupAck 0] ++ arrivals 0 t.hal.lowSpeed x.2.2.2.1 x.2.2.2.2 ++
        [Event.outReady 0]) := by
  unfold ControlReady OnlySof EndsStage
  decide +kernel
/-- V26: ten bytes, from a host buffer of ten and from `CACHE`. -/
theorem test_witness_ControlWriteSendsBuffer :
    let s := scripted { ready with args := ⟨0x000A000002000921#64, false, 3, 10#16, 0⟩ }
      (frame ++ [Event.setupAck 0] ++ List.replicate 2 (Event.outReady 0) ++ [Event.inPacket 0 []])
    ∀ b ∈ [0#8, 1#8], (b = 0#8 ∨ b = 1#8) ∧ ControlReady s ∧ s.cfg.legal = true ∧ legalMps s.ident.ctrlMps = true ∧
      s.request.bmRequestType.getLsbD 7 = false ∧ s.request.wLength.toNat ≤ (bufferOperand b s.args).capacity s.cfg ∧
      s.inputs = atWait (frame ++ [Event.setupAck 0] ++
        List.replicate ((s.request.wLength.toNat + s.ident.ctrlMps - 1) / s.ident.ctrlMps) (Event.outReady 0) ++
        [Event.inPacket 0 []]) := by
  unfold ControlReady OnlySof
  decide +kernel
/-- One frame short of the budget, and the budget. -/
theorem test_witness_SetupTimeoutExact :
    let s := fun n => scripted (asked ready (reqGetDescriptorDevice 18#16 false)) (frame ++ frames n)
    ∀ n ∈ [1, 2], ((0#8 : BitVec 8) = 0#8 ∨ (0#8 : BitVec 8) = 1#8) ∧ ControlReady (s n) ∧ (s n).cfg.legal = true ∧
      (s n).cfg.timeoutDetection = true ∧
      (s n).request.wLength.toNat ≤ (bufferOperand 0#8 (s n).args).capacity (s n).cfg ∧
      n ≤ (s n).cfg.ctrlSetupTimeout ∧ (s n).inputs = atWait (frame ++ frames n) := by
  intro s n hn
  simp only [List.mem_cons, List.not_mem_nil, or_false] at hn
  rcases hn with rfl | rfl <;>
    exact ⟨by decide +kernel, (by unfold ControlReady OnlySof; decide +kernel), ready_legal, rfl, by decide +kernel, by decide +kernel, by decide +kernel⟩
theorem test_witness_ControlStall :
    let s := scripted (asked ready (reqGetDescriptorDevice 255#16 false)) (frame ++ [Event.stall 0])
    ((0#8 : BitVec 8) = 0#8 ∨ (0#8 : BitVec 8) = 1#8) ∧ ControlReady s ∧
    s.request.wLength.toNat ≤ (bufferOperand 0#8 s.args).capacity s.cfg ∧ s.inputs = atWait (frame ++ [Event.stall 0]) :=
  ⟨by decide +kernel, (by unfold ControlReady OnlySof; decide +kernel), by decide +kernel, by decide +kernel⟩
theorem test_witness_ControlAfterEmergency :
    let s := { asked ready (reqGetDescriptorDevice 18#16 false) with flags := { ready.flags with emerg := true } }
    ((0#8 : BitVec 8) = 0#8 ∨ (0#8 : BitVec 8) = 1#8) ∧ Quiet s ∧ s.flags.emerg = true ∧
    s.request.wLength.toNat ≤ (bufferOperand 0#8 s.args).capacity s.cfg :=
  ⟨by decide, ⟨rfl, rfl, rfl⟩, rfl, by decide⟩
/-- One byte more than `CACHE`, and one byte more than a host buffer of none. -/
theorem test_witness_ControlTooLongRefused :
    let s := fun n => asked ready (reqGetDescriptorDevice n false)
    ((1#8 : BitVec 8) = 0#8 ∨ (1#8 : BitVec 8) = 1#8) ∧ Quiet (s 256#16) ∧
    (bufferOperand 0#8 (s 256#16).args).capacity (s 256#16).cfg < (s 256#16).request.wLength.toNat ∧
    (bufferOperand 1#8 (s 1#16).args).capacity (s 1#16).cfg < (s 1#16).request.wLength.toNat :=
  ⟨by decide, ⟨rfl, rfl, rfl⟩, by decide, by decide⟩
/-- 130 bytes in three packets, and none. -/
theorem test_witness_SendDataCompletes :
    let s := fun len n => scripted (given ready 1 len 0) (List.replicate n (Event.outReady 2))
    PumpReady (s 130#16 3) (2#8).toNat false ∧ PumpReady (s 0#16 0) (2#8).toNat false ∧ 0 < (ready.pipe 2).mps ∧
    (s 130#16 3).inputs = atWait (List.replicate (((130#16).toNat + 64 - 1) / 64) (Event.outReady 2)) ∧
    (s 0#16 0).inputs = atWait (List.replicate (((0#16).toNat + 64 - 1) / 64) (Event.outReady 2)) :=
  ⟨ready_pumpOut _ _, ready_pumpOut _ _, by decide, rfl, rfl⟩
/-- `ARG_LEN` 0; a full packet and an empty one, also on a low-speed link; a packet that fills the buffer with bytes in
excess. -/
theorem test_witness_GetDataCompletes :
    let full := [bytesOf (List.range 64)]
    let s := fun low len full last => scripted
      { given ready 5 len 0 with hal := { ready.hal with lowSpeed := low } } (arrivals 1 low full last)
    (PumpReady (given ready 5 0#16 0) (1#8).toNat true ∧ (given ready 5 0#16 0).args.len = 0#16 ∧ ready.inputs = []) ∧
    ∀ x ∈ [(false, 65#16, full, []), (true, 65#16, full, []), (false, 10#16, [], full.head!)],
      let t := s x.1 x.2.1 x.2.2.1 x.2.2.2
      PumpReady t (1#8).toNat true ∧ Memory.wf t.hbuf = true ∧ 0 < (t.pipe (1#8).toNat).mps ∧
      EndsStage (t.pipe (1#8).toNat).mps t.args.len.toNat (t.cfg.cap (1#8).toNat) x.2.2.1 x.2.2.2 ∧
      (t.hal.lowSpeed = true → OnlySof t) ∧ t.inputs = atWait (arrivals (1#8).toNat t.hal.lowSpeed x.2.2.1 x.2.2.2) := by
  unfold PumpReady OnlySof EndsStage
  decide +kernel
theorem test_witness_DelayTimeoutExact :
    let s := fun n => scripted (given ready 1 1#16 0) (frames n)
    ∀ n ∈ [1, 2], PumpReady (s n) (2#8).toNat false ∧ (s n).cfg.legal = true ∧ OnlySof (s n) ∧
      (s n).cfg.delayTimeoutEn = true ∧ 0 < (s n).args.len.toNat ∧ 0 < ((s n).pipe (2#8).toNat).mps ∧
      n ≤ (s n).cfg.delayTimeoutSof ∧ (s n).inputs = atWait (frames n) := by
  intro s n hn
  simp only [List.mem_cons, List.not_mem_nil, or_false] at hn
  rcases hn with rfl | rfl <;>
    exact ⟨ready_pumpOut _ _, ready_legal, ⟨rfl, rfl, rfl, rfl⟩, rfl, by decide, by decide, by decide, rfl⟩
theorem test_witness_NakBudgetExact :
    let s := fun n => scripted (given ready 1 1#16 0) (List.replicate n (Event.nak 1))
    ∀ n ∈ [3, 4], PumpReady (s n) (1#8).toNat true ∧ (s n).cfg.legal = true ∧ (s n).cfg.nakTimeoutEn = true ∧
      ((s n).pipe (1#8).toNat).typ ≠ .interrupt ∧ 0 < (s n).args.len.toNat ∧ n ≤ (s n).cfg.nakReceiveBudget ∧
      (s n).inputs = atWait (List.replicate n (Event.nak (1#8).toNat)) := by
  intro s n hn
  simp only [List.mem_cons, List.not_mem_nil, or_false] at hn
  rcases hn with rfl | rfl <;>
    exact ⟨ready_pumpIn _ _, ready_legal, rfl, by decide, by decide, by decide, rfl⟩
/-- Pipe 0, the first pipe past the end, a free pipe, the wrong direction, and a busy pipe, for each operation. -/
theorem test_witness_PumpOperandRefused :
    (∀ p ∈ [0#8, 7#8, 4#8, 1#8], ¬ (1 ≤ p.toNat ∧ p.toNat < ready.cfg.nPipes ∧ (ready.pipe p.toNat).alloc = true ∧
      (ready.pipe p.toNat).dirIn = false ∧ (ready.job p.toNat).enabled = false)) ∧
    (∀ p ∈ [0#8, 7#8, 4#8, 2#8, 1#8], ¬ (1 ≤ p.toNat ∧ p.toNat < armed.cfg.nPipes ∧ (armed.pipe p.toNat).alloc = true ∧
      (armed.pipe p.toNat).dirIn = true ∧ (armed.job p.toNat).enabled = false)) := by decide
theorem armed_ready (a : Args) : ArmReady { armed with args := a } 2 false ∧ ArmReady { armed with args := a } 1 true :=
  ⟨⟨rfl, rfl, Nat.succ_pos _, (by decide : 2 < 7), rfl, rfl, .inl rfl⟩, ⟨rfl, rfl, Nat.succ_pos _, (by decide : 1 < 7), rfl, rfl, .inl rfl⟩⟩
theorem test_witness_ArmBusyPipe :
    (armed.job (2#8).toNat).enabled = true ∧ (armed.job (1#8).toNat).enabled = true ∧
    ArmReady armed (2#8).toNat false ∧ ArmReady armed (1#8).toNat true :=
  ⟨rfl, rfl, (armed_ready armed.args).1, (armed_ready armed.args).2⟩
/-- The pipe is enabled, and its FIFO holds the first packet. -/
theorem test_witness_ArmSend :
    let s := given ready 1 100#16 7
    ArmReady s (2#8).toNat false ∧ (s.job (2#8).toNat).enabled = false ∧ (s.halPipe (2#8).toNat).on = true ∧
    min s.args.len.toNat (s.pipe (2#8).toNat).mps ≤ s.cfg.cap (2#8).toNat :=
  ⟨⟨rfl, rfl, by decide, by decide, rfl, rfl, .inl rfl⟩, rfl, rfl, by decide⟩
theorem test_witness_ArmReceive :
    ArmReady (given ready 1 512#16 7) (1#8).toNat true ∧ (ready.job (1#8).toNat).enabled = false :=
  ⟨⟨rfl, rfl, by decide, by decide, rfl, rfl, .inl rfl⟩, rfl⟩
/-- Pipe 0 is refused; and pipe 2 while SEND_DATA is in progress on it. -/
theorem test_witness_ArmOperandRefused :
    let s := { ready with sp := ⟨.sending, 2, 4, 0, 0⟩ }
    let ok := fun p : BitVec 8 => 1 ≤ p.toNat ∧ p.toNat < s.cfg.nPipes ∧ (s.pipe p.toNat).alloc = true ∧
      (s.pipe p.toNat).dirIn = false
    ¬ ok 0#8 ∧ ¬ ok 7#8 ∧ ¬ ok 1#8 ∧ ok 2#8 ∧ s.sp.phase ≠ .idle ∧ s.sp.pipe = (2#8).toNat := by decide
theorem test_witness_PipeIsrUnarmed :
    (1 ≤ (6#8).toNat ∧ (6#8).toNat < ready.cfg.nPipes ∧ (ready.job (6#8).toNat).enabled = false) ∧
    ¬ (1 ≤ (0#8).toNat ∧ (0#8).toNat < ready.cfg.nPipes) ∧ ¬ (1 ≤ (7#8).toNat ∧ (7#8).toNat < ready.cfg.nPipes) := by decide
/-- The last packet, and one before it. -/
theorem test_witness_PipeIsrOutReady :
    let s := fun j => withPipe (armed.setJob 2 j) 2 fun h => { h with outReady := true }
    ∀ j ∈ [jobOut, { jobOut with processed := 64, inflight := 36 }],
      (s j).plan = [] ∧ 1 ≤ (2#8).toNat ∧ (2#8).toNat < (s j).cfg.nPipes ∧ ((s j).job (2#8).toNat).enabled = true ∧
      ((s j).job (2#8).toNat).dirIn = false ∧ ((s j).halPipe (2#8).toNat).outReady = true := by decide
/-- A full packet that fills the buffer, a short one, and a full one with room left; the second also on a disabled pipe, with
`EMERG` and without. -/
theorem test_witness_PipeIsrInReady :
    let s := fun total (l : List Byte) enabled lost => withPipe { armed.setJob 1 { jobIn with total := total } with
        flags := { armed.flags with emerg := lost } } 1
      fun h => { h with on := enabled, inReady := true, fifo := l, byteCount := l.length }
    let taken := fun t : State => ((t.halPipe 1).on = true ∧ (t.pipe 1).alloc = true) ∨ t.flags.emerg = true
    taken (s 128 [] true false) ∧ taken (s 128 [] false true) ∧ ¬ taken (s 128 [] false false) ∧
    ∀ x ∈ [(128, bytesOf (List.range 64), true, false), (128, bytesOf [1, 2], true, false),
        (129, bytesOf (List.range 64), true, false), (128, bytesOf [1, 2], false, true), (128, bytesOf [1, 2], false, false)],
      let t := s x.1 x.2.1 x.2.2.1 x.2.2.2
      t.plan = [] ∧ Memory.wf t.hbuf = true ∧ 1 ≤ (1#8).toNat ∧ (1#8).toNat < t.cfg.nPipes ∧
      (t.job (1#8).toNat).enabled = true ∧ (t.job (1#8).toNat).dirIn = true ∧ (t.halPipe (1#8).toNat).inReady = true ∧
      (t.halPipe (1#8).toNat).byteCount = (t.halPipe (1#8).toNat).fifo.length ∧ (t.job (1#8).toNat).total < 65536 ∧
      (t.job (1#8).toNat).processed ≤ (t.job (1#8).toNat).total := by decide +kernel
/-- A STALL, and an error with a STALL. -/
theorem test_witness_PipeIsrErrorStall :
    let s := fun e => withPipe armed 2 fun h => { h with stall := true, error := e }
    ∀ e ∈ [0#5, 0x10#5], (s e).plan = [] ∧ 1 ≤ (2#8).toNat ∧ (2#8).toNat < (s e).cfg.nPipes ∧
      ((s e).job (2#8).toNat).enabled = true ∧
      (if ((s e).job (2#8).toNat).dirIn then ((s e).halPipe (2#8).toNat).inReady
        else ((s e).halPipe (2#8).toNat).outReady) = false ∧
      (((s e).halPipe (2#8).toNat).error ≠ 0#5 ∨ ((s e).halPipe (2#8).toNat).stall = true) := by decide
/-- A budget of 1 ends the job, one of 2 does not. -/
theorem test_witness_PipeIsrNak :
    let s := fun n => withPipe (armed.setJob 1 { jobIn with nak := n }) 1 fun h => { h with nak := true }
    ∀ n ∈ [1, 2], (s n).plan = [] ∧ 1 ≤ (1#8).toNat ∧ (1#8).toNat < (s n).cfg.nPipes ∧
      ((s n).job (1#8).toNat).enabled = true ∧
      (if ((s n).job (1#8).toNat).dirIn then ((s n).halPipe (1#8).toNat).inReady
        else ((s n).halPipe (1#8).toNat).outReady) = false ∧
      ((s n).halPipe (1#8).toNat).error = 0#5 ∧ ((s n).halPipe (1#8).toNat).stall = false ∧
      ((s n).halPipe (1#8).toNat).nak = true ∧ (s n).cfg.nakTimeoutEn = true ∧
      ((s n).pipe (1#8).toNat).typ ≠ .interrupt := by decide
theorem test_witness_AbortEveryJob :
    Quiet armed ∧ Quiet ready ∧ armed.cfg.legal = true ∧ armed.jobs.length = armed.cfg.nPipes ∧ ready.anyArmed = false ∧
    armed.anyArmed = true := ⟨⟨rfl, rfl, rfl⟩, ready_quiet, ready_legal, rfl, rfl, rfl⟩
theorem test_witness_DisconnectEntries :
    armed.plan = [] ∧ armed.jobs.length = armed.cfg.nPipes ∧ armed.pipes.length = armed.cfg.nPipes := by decide
/-- One state for each place in the order. -/
theorem test_witness_SequencerOrder :
    let s := fun (h : Hal → Hal) => { ready with hal := h ready.hal }
    (s fun h => { h with vbusError := true, disc := true }).pendingSource = some .vbusError ∧
    (s fun h => { h with disc := true, roleChange := true }).pendingSource = some .disconnect ∧
    (s fun h => { h with roleChange := true, sof := true }).pendingSource = some .roleChange ∧
    ({ s (fun h => { h with wakeup := true, sof := true }) with en := { ready.en with wakeie := true } } : State).pendingSource =
      some .wakeup ∧
    (s fun h => { h with wakeup := true, sof := true }).pendingSource = some .sof ∧
    ({ s (fun h => { h with sof := true }) with en := { ready.en with sofgen := false } } : State).pendingSource = none ∧
    (withPipe (withPipe ready 2 fun h => { h with stall := true, causes := ⟨true, true, true, true⟩ }) 1
      fun h => { h with nak := true }).pendingSource = some (.pipe 2) ∧ ready.pendingSource = none := by decide
theorem test_witness_ResetValues : armed.fg = [] := rfl
theorem test_witness_InvAtReset : short.legal = true := ready_legal
theorem ready_fifo (p : Nat) : (ready.halPipe p).fifo.length ≤ ready.cfg.cap p := by
  rcases Nat.lt_or_ge p 7 with h | h
  · exact (by decide : ∀ p, p < 7 → (ready.halPipe p).fifo.length ≤ ready.cfg.cap p) p h
  · have : ready.halPipe p = HalPipe.disabled := by
      unfold State.halPipe
      rw [List.getD_eq_default]
      exact h
    rw [this]
    exact Nat.zero_le _
/-- The invariant holds in a state that is not the reset state, with a transfer in progress, and a step goes on. -/
theorem test_witness_StepKeepsInv :
    let s := { ready with fg := [.act .clearEvtSof] }
    Inv s ∧ ∃ t, step s = .next t :=
  ⟨⟨ready_legal, rfl, rfl, rfl, rfl, by decide, by decide, rfl, (fun h => nomatch h), (fun h => nomatch h), ready_fifo, fun m hm => by
      simp only [List.mem_singleton] at hm
      subst hm
      refine ⟨fun p hp => ?_, by decide, by decide, fun n hn => ?_⟩
      · simp [Micro.writes, Act.writes] at hp
      · simp at hn⟩, _, rfl⟩
theorem test_witness_StepKeepsParameters : ∃ t, step ready = .next t := ⟨_, rfl⟩
/-- In `Unattached` with EV_SOF presented, and in `Ready` with TICK presented. -/
theorem test_witness_EmergencyHoldsUntilUnattached :
    let s := { (at_ .unattached).withFetchWord 32 0x80000000 with flags := { ready.flags with emerg := true } }
    s.flags.emerg = true ∧ Micro.act .critClear ∉ s.fg ∧
    (s.ds = .unattached → ∀ w, s.bus = some w → decode w ≠ .ok .tick) ∧ (∀ i ∈ s.inputs, i.event ≠ .construct) ∧
    ∃ t, step s = .next t := by
  refine ⟨rfl, by decide, fun _ w hw => ?_, by decide, _, rfl⟩
  cases hw
  intro h
  cases h
theorem test_witness_OnlyTickAndEmergenciesMoveDs :
    (Instr.abortAllPipes ≠ .tick ∧ Instr.abortAllPipes ≠ .evDisconnect ∧ Instr.abortAllPipes ≠ .evRoleChange ∧
      Instr.abortAllPipes ≠ .evVbusError) ∧ armed.inputs = [] ∧ (after .abortAllPipes armed).isSome = true := by
  decide +kernel

end Sys2Proof.Tests
end

section
/-! PROOFS. The family `00_scope.md`: which pipe an endpoint gets (rule R9, rule R270) and what a step runs (rule R1). -/

namespace Sys2Proof

/-! ### The data pipes and their capacities (rule R8, rule R9) -/

/-- A legal configuration has the control pipe and at least one data pipe (rule R8). -/
theorem Config.two_le_nPipes {c : Config} (h : c.legal = true) : 2 ≤ c.nPipes := by
  simp only [Config.legal, Bool.and_eq_true, decide_eq_true_eq] at h
  omega

theorem Config.mem_dataPipes {c : Config} {p : Nat} : p ∈ c.dataPipes ↔ 1 ≤ p ∧ p < c.nPipes := by
  rw [Config.dataPipes, List.mem_range'_1]
  omega

theorem Config.one_mem_dataPipes {c : Config} (h : c.legal = true) : 1 ∈ c.dataPipes :=
  Config.mem_dataPipes.mpr ⟨Nat.le_refl 1, Config.two_le_nPipes h⟩

/-- `SMALL_CAP` is a minimum of the data pipes' capacities: the value its fold starts from is one of them. -/
theorem Config.smallCap_isLeast {c : Config} (h : c.legal = true) :
    (∃ p ∈ c.dataPipes, c.cap p = c.smallCap) ∧ ∀ p ∈ c.dataPipes, c.smallCap ≤ c.cap p := by
  have hone : c.cap 1 ∈ c.dataPipes.map c.cap := List.mem_map_of_mem (Config.one_mem_dataPipes h)
  have hmin : (c.cap 1 :: c.dataPipes.map c.cap).min? = some c.smallCap := List.min?_cons'
  obtain ⟨hmem, hle⟩ := List.min?_eq_some_iff.mp hmin
  refine ⟨List.mem_map.mp ?_, fun p hp => hle _ (List.mem_cons_of_mem _ (List.mem_map_of_mem hp))⟩
  rcases List.mem_cons.mp hmem with heq | hin
  · rwa [heq]
  · exact hin

/-- Keeping the better of two along an ascending list, the earlier one on a tie, ends with the lowest place of the largest
value. -/
theorem foldl_keepBest_isLeast_max (f : Nat → Nat) (l : List Nat) (b m : Nat) (hs : (b :: l).Pairwise (· ≤ ·))
    (hm : l.foldl (fun best p => if f best < f p then p else best) b = m) :
    m ∈ b :: l ∧ ∀ a ∈ b :: l, f a ≤ f m ∧ (f a = f m → m ≤ a) := by
  induction l generalizing b with
  | nil => simp_all
  | cons x l ih =>
    simp only [List.pairwise_cons, List.forall_mem_cons] at hs
    obtain ⟨⟨hbx, hbl⟩, hxl, hl⟩ := hs
    rw [List.foldl_cons] at hm
    split at hm
    next hlt =>
      obtain ⟨hmem, hmax⟩ := ih x (List.pairwise_cons.mpr ⟨hxl, hl⟩) hm
      have hx := hmax x List.mem_cons_self
      exact ⟨List.mem_cons_of_mem _ hmem, List.forall_mem_cons.mpr ⟨⟨by omega, by omega⟩, hmax⟩⟩
    next hge =>
      obtain ⟨hmem, hmax⟩ := ih b (List.pairwise_cons.mpr ⟨hbl, hl⟩) hm
      obtain ⟨hb, hrest⟩ := List.forall_mem_cons.mp hmax
      refine ⟨?_, List.forall_mem_cons.mpr ⟨hb, List.forall_mem_cons.mpr ⟨⟨by omega, by omega⟩, hrest⟩⟩⟩
      rcases List.mem_cons.mp hmem with rfl | hin
      · exact List.mem_cons_self
      · exact List.mem_cons_of_mem _ (List.mem_cons_of_mem _ hin)

/-- `BIG_PIPE` is a data pipe, no data pipe is larger, and no equally large one is lower. -/
theorem Config.bigPipe_isLeast_max {c : Config} (h : c.legal = true) :
    c.bigPipe ∈ c.dataPipes ∧ ∀ p ∈ c.dataPipes, c.cap p ≤ c.cap c.bigPipe ∧ (c.cap p = c.cap c.bigPipe → c.bigPipe ≤ p) := by
  have hsorted : (1 :: c.dataPipes).Pairwise (· ≤ ·) :=
    List.pairwise_cons.mpr ⟨fun p hp => (Config.mem_dataPipes.mp hp).1, List.pairwise_le_range' 1⟩
  obtain ⟨hmem, hmax⟩ := foldl_keepBest_isLeast_max c.cap c.dataPipes 1 c.bigPipe hsorted rfl
  refine ⟨?_, (List.forall_mem_cons.mp hmax).2⟩
  rcases List.mem_cons.mp hmem with heq | hin
  · rw [heq]
    exact Config.one_mem_dataPipes h
  · exact hin

namespace Machine

/-! ### The pipe an endpoint gets (rule R270) -/

theorem choosePipe_of_large {s : State} {size : Nat} (h : s.cfg.smallCap < size) :
    choosePipe s size = if (s.pipe s.cfg.bigPipe).alloc then none else some s.cfg.bigPipe := if_pos h

theorem choosePipe_of_small {s : State} {size : Nat} (h : size ≤ s.cfg.smallCap) :
    choosePipe s size = s.cfg.dataPipes.find? fun q => !(s.pipe q).alloc := if_neg (Nat.not_lt.mpr h)

/-- An endpoint that fits every data pipe gets `p` exactly when `p` is the lowest free one. -/
theorem choosePipe_of_small_eq_some {s : State} {size p : Nat} (h : size ≤ s.cfg.smallCap) :
    choosePipe s size = some p ↔
      p ∈ s.cfg.dataPipes ∧ (s.pipe p).alloc = false ∧ ∀ q ∈ s.cfg.dataPipes, (s.pipe q).alloc = false → p ≤ q := by
  rw [choosePipe_of_small h, Config.dataPipes, List.find?_range'_eq_some]
  simp only [Bool.not_not, Bool.not_eq_true']
  constructor
  · rintro ⟨hfree, hmem, hbelow⟩
    refine ⟨hmem, hfree, fun q hq hqfree => Nat.le_of_not_lt fun hlt => ?_⟩
    have htaken := hbelow q (List.mem_range'_1.mp hq).1 hlt
    simp [hqfree] at htaken
  · rintro ⟨hmem, hfree, hlowest⟩
    refine ⟨hfree, hmem, fun q hq hlt => ?_⟩
    have hqmem : q ∈ List.range' 1 (s.cfg.nPipes - 1) :=
      List.mem_range'_1.mpr ⟨hq, hlt.trans (List.mem_range'_1.mp hmem).2⟩
    exact Bool.of_not_eq_false fun hqfree => Nat.not_le.mpr hlt (hlowest q hqmem hqfree)

theorem choosePipe_of_small_eq_none {s : State} {size : Nat} (h : size ≤ s.cfg.smallCap) :
    choosePipe s size = none ↔ ∀ q ∈ s.cfg.dataPipes, (s.pipe q).alloc = true := by
  simp [choosePipe_of_small h]

/-- Settles O15: `SMALL_CAP` and `BIG_PIPE` by their folds over the data pipes, the choice by its two branches. -/
theorem pipeChoice : Obligations.PipeChoice := by
  intro s size hlegal
  simp only [← Config.mem_dataPipes]
  obtain ⟨hbig, hmax⟩ := Config.bigPipe_isLeast_max hlegal
  exact ⟨Config.smallCap_isLeast hlegal, ⟨hbig, fun p hp => (hmax p hp).1, fun p hp => (hmax p hp).2⟩, choosePipe_of_large,
    fun hle => ⟨fun p => choosePipe_of_small_eq_some hle, choosePipe_of_small_eq_none hle⟩⟩

end Machine

/-! ### What a presented word decodes to is well formed (rule R127 (1)) -/

/-- Whatever operation this decoder result names is well formed. -/
def NamesWellFormed (r : Except DecodeError Instr) : Prop := ∀ i, r = .ok i → WellFormed i = true

@[simp] theorem namesWellFormed_error (e : DecodeError) : NamesWellFormed (.error e) := nofun

@[simp] theorem namesWellFormed_ok {i : Instr} : NamesWellFormed (.ok i) ↔ WellFormed i = true := by
  simp [NamesWellFormed]

/-- The decoder is a chain of tests: each answer is looked at under its test. -/
@[simp] theorem namesWellFormed_ite {P : Prop} [Decidable P] {r r' : Except DecodeError Instr} :
    NamesWellFormed (if P then r else r') ↔ (P → NamesWellFormed r) ∧ (¬ P → NamesWellFormed r') := by
  split <;> simp_all

@[simp] theorem namesWellFormed_bare (w : Word) (i : Instr) :
    NamesWellFormed (bare w i) ↔ (fieldA w = 0#8 ∧ fieldB w = 0#8 → WellFormed i = true) := by
  simp [bare]

@[simp] theorem namesWellFormed_withA (w : Word) (i : BitVec 8 → Instr) :
    NamesWellFormed (withA w i) ↔ (fieldB w = 0#8 → WellFormed (i (fieldA w)) = true) := by
  simp [withA]

/-- The one field whose values are restricted: the decoder tests the buffer select as `WellFormed` does. -/
@[simp] theorem namesWellFormed_withSelect (w : Word) : NamesWellFormed (withSelect w) := by
  have hselect : fieldB w = 0#8 ∨ fieldB w = 1#8 → WellFormed (.transferControl (fieldB w)) = true := by
    simp [WellFormed]
  simpa [withSelect] using fun _ => hselect

theorem namesWellFormed_decodeCmd (w : Word) : NamesWellFormed (decodeCmd w) := by
  simp [decodeCmd, WellFormed]

theorem namesWellFormed_decodeSetup (w : SetupWord) (incomplete : Bool) : NamesWellFormed (decodeSetup w incomplete) := by
  simp [decodeSetup, WellFormed]

theorem wellFormed_of_decode {w : Presented} {i : Instr} (h : decode w = .ok i) : WellFormed i = true :=
  match w with
  | .cmd w => namesWellFormed_decodeCmd w i h
  | .setup w incomplete => namesWellFormed_decodeSetup w incomplete i h

namespace Machine

/-! ### A step (rule R1, rule R60) -/

theorem step_of_decode {s : State} {w : Presented} {i : Instr} (hw : s.bus = some w) (hi : decode w = .ok i) :
    step s = exec i (s.setBus none) := by
  simp only [step, hw, hi]

theorem step_of_bus_none {s : State} (hw : s.bus = none) : step s = goOn s := by
  simp only [step, hw]

theorem goOn_of_idle {s : State} (hf : s.fg = []) (hi : s.inputs = []) : goOn s = .next s := by
  simp only [goOn, hf, hi]

/-- Settles O5: what decodes is well formed, and each branch of a step. -/
theorem stepRunsDecoded : Obligations.StepRunsDecoded :=
  ⟨fun _ _ _ hw hi => ⟨wellFormed_of_decode hi, step_of_decode hw hi⟩,
    fun _ hw hf hin => (step_of_bus_none hw).trans (goOn_of_idle hf hin)⟩

end Machine
end Sys2Proof
end

section
/-! PROOFS. The family `20_memory.md`: what TRANSFER_CONTROL moves between the control pipe and its buffer operand (rule
R82, rule R83). -/

namespace Sys2Proof.Machine

/-! ### How far a run goes -/

/-- Whatever the fuel, the run of `s` comes to `t` after at most `k` micro-steps and inputs. -/
def RunsTo (k : Nat) (s t : State) : Prop := ∃ j ≤ k, ∀ n, run (j + n) s = run n t

theorem RunsTo.refl (s : State) : RunsTo 0 s s := ⟨0, Nat.le_refl 0, fun n => by rw [Nat.zero_add]⟩

theorem RunsTo.trans {j k : Nat} {s t u : State} (h : RunsTo j s t) (h' : RunsTo k t u) : RunsTo (j + k) s u := by
  obtain ⟨i, hi, hrun⟩ := h
  obtain ⟨i', hi', hrun'⟩ := h'
  exact ⟨i + i', Nat.add_le_add hi hi', fun n => by rw [Nat.add_assoc, hrun, hrun']⟩

theorem RunsTo.mono {j k : Nat} {s t : State} (h : RunsTo j s t) (hjk : j ≤ k) : RunsTo k s t :=
  h.imp fun _ ⟨hi, hrun⟩ => ⟨hi.trans hjk, hrun⟩

/-- A run that comes to a state with nothing left to do, with fuel enough to come there, ends in it. -/
theorem RunsTo.run_eq {k n : Nat} {s t : State} (h : RunsTo k s t) (hkn : k ≤ n) (ht : t.fg = []) :
    run n s = .next t := by
  obtain ⟨j, hj, hrun⟩ := h
  obtain ⟨m, rfl⟩ := Nat.exists_eq_add_of_le (hj.trans hkn)
  rw [hrun, run_done m t ht]

/-- A micro-step that runs. -/
theorem RunsTo.of_micro {s t : State} {m : Micro} {rest : List Micro} (hc : s.calm = true) (hf : s.fg = m :: rest)
    (hm : micro m (s.setFg rest) = .ran t) (ht : t.calm = true) : RunsTo 1 s t :=
  ⟨1, Nat.le_refl 1, fun n => by rw [Nat.add_comm, run_ran n s t m rest hc hf hm, State.elapse_calm ht]⟩

/-- A poll that is pending, and the next input. -/
theorem RunsTo.of_pending {s s' t : State} {m : Micro} {rest : List Micro} {i : Input} {later : List Input}
    (hc : s.calm = true) (hf : s.fg = m :: rest) (hm : micro m (s.setFg rest) = .pending s')
    (hi : s'.inputs = i :: later) (ho : occur i.event (s'.setInputs later) = .next t) : RunsTo 1 s t :=
  ⟨1, Nat.le_refl 1, fun n => by rw [Nat.add_comm, run_input n s s' m rest i later hc hf hm hi, ho]; rfl⟩

theorem acts_setFg (l : List Act) (s : State) (f : List Micro) : acts l (s.setFg f) = (acts l s).setFg f := by
  induction l generalizing s with
  | nil => rfl
  | cons a l ih => simp only [acts, act_with_fg, ih]

/-- A list of straight-line micro-steps. -/
theorem RunsTo.of_acts {l : List Act} {s : State} {rest : List Micro} (hc : s.calm = true)
    (hf : s.fg = actSteps l ++ rest) : RunsTo l.length s (acts l (s.setFg rest)) :=
  ⟨l.length, Nat.le_refl _, fun n => by rw [run_acts l n s rest hc hf, acts_setFg]⟩

/-! ### A state seen from its control transfer -/

/-- What a control transfer changes from one phase to the next: what the HAL holds of the control pipe, the HAL actions
issued so far, its registers, `st`, `TMO`, the micro-steps still to take and the events still to come. -/
structure CtView where
  pipe : HalPipe
  out : List HalAction
  ct : CtRegs
  st : Status
  tmo : Nat
  fg : List Micro
  events : List Event

/-- The state `u` with what its control transfer has changed. -/
def State.ctAt (u : State) (v : CtView) : State :=
  { u with
    hal := { u.hal with pipes := tableSet HalPipe.disabled u.hal.pipes Config.pControl v.pipe }
    trace := (hals v.out).reverse ++ u.trace
    ct := v.ct, st := v.st, cnt := { u.cnt with tmo := v.tmo }, fg := v.fg, inputs := atWait v.events }

section
variable (u : State) (v : CtView)

@[simp] theorem State.ctAt_cfg : (u.ctAt v).cfg = u.cfg := rfl
@[simp] theorem State.ctAt_flags : (u.ctAt v).flags = u.flags := rfl
@[simp] theorem State.ctAt_en : (u.ctAt v).en = u.en := rfl
@[simp] theorem State.ctAt_ident : (u.ctAt v).ident = u.ident := rfl
@[simp] theorem State.ctAt_sr : (u.ctAt v).sr = u.sr := rfl
@[simp] theorem State.ctAt_cnt : (u.ctAt v).cnt = { u.cnt with tmo := v.tmo } := rfl
@[simp] theorem State.ctAt_ct : (u.ctAt v).ct = v.ct := rfl
@[simp] theorem State.ctAt_st : (u.ctAt v).st = v.st := rfl
@[simp] theorem State.ctAt_fg : (u.ctAt v).fg = v.fg := rfl
@[simp] theorem State.ctAt_inputs : (u.ctAt v).inputs = atWait v.events := rfl
@[simp] theorem State.ctAt_pipe (p : Nat) : (u.ctAt v).pipe p = u.pipe p := rfl

@[simp] theorem State.ctAt_halPipe : (u.ctAt v).halPipe Config.pControl = v.pipe := by
  simp only [State.halPipe, State.ctAt, tableSet_getD, if_pos]

@[simp] theorem State.ctAt_calm : (u.ctAt v).calm = true := by
  cases hv : v.events with
  | nil => exact State.calm_nil (by simp [hv, atWait])
  | cons e es => exact State.calm_atWait (e := e) (later := atWait es) (by simp [hv, atWait])

@[simp] theorem State.ctAt_setFg (f : List Micro) : (u.ctAt v).setFg f = u.ctAt { v with fg := f } := rfl
@[simp] theorem State.ctAt_setCt (c : CtRegs) : (u.ctAt v).setCt c = u.ctAt { v with ct := c } := rfl
@[simp] theorem State.ctAt_setSt (st : Status) : (u.ctAt v).setSt st = u.ctAt { v with st := st } := rfl
@[simp] theorem State.ctAt_push (ms : List Micro) : (u.ctAt v).push ms = u.ctAt { v with fg := ms ++ v.fg } := rfl
@[simp] theorem State.ctAt_setSr (r : Setup) : (u.ctAt v).setSr r = (u.setSr r).ctAt v := rfl
@[simp] theorem State.ctAt_setFlags (f : FlagRegs) : (u.ctAt v).setFlags f = (u.setFlags f).ctAt v := rfl
@[simp] theorem State.ctAt_sofPush : (u.ctAt v).sofPush = u.sofPush.ctAt v := rfl

end

theorem tableSet_tableSet {α : Type} (d v w : α) (l : List α) (i : Nat) :
    tableSet d (tableSet d l i v) i w = tableSet d l i w := by
  induction i generalizing l with
  | zero => cases l <;> rfl
  | succ i ih => cases l <;> simp only [tableSet, ih]

/-- A table entry that is not the filling is there, so writing it back changes nothing. -/
theorem tableSet_self {α : Type} (d : α) (l : List α) (i : Nat) (h : l.getD i d ≠ d) :
    tableSet d l i (l.getD i d) = l := by
  induction i generalizing l with
  | zero =>
    cases l with
    | nil => simp at h
    | cons x rest => rfl
  | succ i ih =>
    cases l with
    | nil => simp at h
    | cons x rest => simpa [tableSet] using ih rest (by simpa using h)

theorem State.ctAt_onPipe (u : State) (v : CtView) (f : HalPipe → HalPipe) :
    (u.ctAt v).onPipe Config.pControl f = u.ctAt { v with pipe := f v.pipe } := by
  rw [State.onPipe, State.ctAt_halPipe]
  simp only [State.setHalPipe, State.ctAt, State.setHal, tableSet_tableSet]

/-- A state in which the control pipe is enabled is seen from its own control transfer. -/
theorem State.ctAt_self {s : State} {es : List Event} (hon : (s.halPipe Config.pControl).on = true)
    (hin : s.inputs = atWait es) (fg : List Micro) :
    s.setFg fg = s.ctAt ⟨s.halPipe Config.pControl, [], s.ct, s.st, s.cnt.tmo, fg, es⟩ := by
  have hpipes : tableSet HalPipe.disabled s.hal.pipes Config.pControl (s.halPipe Config.pControl) = s.hal.pipes :=
    tableSet_self _ _ _ fun h => by rw [State.halPipe, h] at hon; cases hon
  simp only [State.ctAt, hpipes, ← hin]
  rfl

/-! ### Straight-line micro-steps of a control transfer -/

/-- What an action on the control pipe makes of what the HAL holds of it; the bytes `hal.fifo_write` leaves in the FIFO
are not told here. -/
def HalPipe.respond (a : HalAction) (h : HalPipe) : HalPipe :=
  match a with
  | .resetPipe _ => h.reset
  | .freezePipe _ => { h with frozen := true }
  | .unfreezePipe _ => { h with frozen := false }
  | .setToken _ t => { h with token := t }
  | .fifoRead _ => { h with fifo := h.fifo.tail }
  | .sendSetup _ => { h with sent := true }
  | .sendOut _ => { h with sent := true }
  | .ackSetup _ => { h with setupAck := false }
  | .ackIn _ => { h with inReady := false, fifo := [] }
  | .ackOut _ => { h with outReady := false }
  | _ => h

/-- The actions that `HalPipe.respond` tells in full. -/
def HalAction.drivesControl (a : HalAction) : Bool :=
  match a with
  | .resetPipe p => p == Config.pControl
  | .freezePipe p => p == Config.pControl
  | .unfreezePipe p => p == Config.pControl
  | .setToken p _ => p == Config.pControl
  | .fifoRead p => p == Config.pControl
  | .sendSetup p => p == Config.pControl
  | .sendOut p => p == Config.pControl
  | .sendIn p => p == Config.pControl
  | .ackSetup p => p == Config.pControl
  | .ackIn p => p == Config.pControl
  | .ackOut p => p == Config.pControl
  | _ => false

@[simp] theorem HalPipe.respond_on (a : HalAction) (h : HalPipe) : (h.respond a).on = h.on := by
  cases a <;> rfl

theorem State.ctAt_emit (u : State) (v : CtView) (a : HalAction) :
    (u.ctAt v).emit (.hal a) = u.ctAt { v with out := v.out ++ [a] } := by
  simp [State.ctAt, State.emit, State.setTrace, hals]

section
variable {u : State} {v : CtView} (ha : (u.pipe Config.pControl).alloc = true) (hon : v.pipe.on = true)
include ha hon

theorem State.ctAt_live : (u.ctAt v).live Config.pControl = true := by
  simp [State.live, ha, hon]

theorem State.ctAt_onLive (f : HalPipe → HalPipe) :
    (u.ctAt v).onLive Config.pControl f = u.ctAt { v with pipe := f v.pipe } := by
  rw [State.onLive, if_pos (State.ctAt_live ha hon), State.ctAt_onPipe]

theorem State.ctAt_onTaken (r : HalPipe → Bool) (f : HalPipe → HalPipe) :
    (u.ctAt v).onTaken Config.pControl r f = u.ctAt { v with pipe := f v.pipe } := by
  rw [State.onTaken, if_pos ((State.takes_eq _ _ _).mpr (.inl (State.ctAt_live ha hon))), State.ctAt_onPipe]

theorem State.ctAt_doHal {a : HalAction} (hd : a.drivesControl = true) :
    (u.ctAt v).doHal a = u.ctAt { v with pipe := v.pipe.respond a, out := v.out ++ [a] } := by
  have hlive := fun f => State.ctAt_onLive (v := { v with out := v.out ++ [a] }) ha hon f
  have htaken := fun r f => State.ctAt_onTaken (v := { v with out := v.out ++ [a] }) ha hon r f
  rw [State.doHal, State.ctAt_emit]
  cases a
  case resetPipe | freezePipe | unfreezePipe | setToken | sendSetup | sendOut | ackSetup =>
    obtain rfl := beq_iff_eq.mp hd
    exact hlive _
  case fifoRead | ackIn | ackOut =>
    obtain rfl := beq_iff_eq.mp hd
    exact htaken _ _
  case sendIn => rfl
  all_goals cases hd

/-- `hal.fifo_write` leaves something in the FIFO, and nothing else of the pipe changes. -/
theorem State.ctAt_fifoWrite (b : Byte) :
    ∃ fifo, (u.ctAt v).doHal (.fifoWrite Config.pControl b) =
      u.ctAt { v with pipe := { v.pipe with fifo := fifo }, out := v.out ++ [.fifoWrite Config.pControl b] } := by
  rw [State.doHal, State.ctAt_emit]
  exact ⟨State.fitFifo _ Config.pControl (v.pipe.fifo ++ [b]),
    State.ctAt_onLive (v := { v with out := v.out ++ [.fifoWrite Config.pControl b] }) ha hon _⟩

end

/-- The view after a straight-line micro-step of the transfer itself. -/
def CtView.after (v : CtView) (a : Act) : CtView :=
  match a with
  | .hal h => { v with pipe := v.pipe.respond h, out := v.out ++ [h] }
  | .ctBuf b => { v with ct := { v.ct with buf := b } }
  | .ctRem n => { v with ct := { v.ct with rem := n } }
  | .ctOff n => { v with ct := { v.ct with off := n } }
  | .ctPhase p => { v with ct := { v.ct with phase := p } }
  | .ctMoveOff n => { v with ct := { v.ct with off := v.ct.off + n } }
  | .ctMoveRem n => { v with ct := { v.ct with rem := v.ct.rem - n } }
  | .zeroTmo => { v with tmo := 0 }
  | .setStatus st => { v with st := st }
  | _ => v

/-- The straight-line micro-steps that `CtView.after` tells in full. -/
def Act.inView (a : Act) : Bool :=
  match a with
  | .hal h => h.drivesControl
  | .ctBuf _ => true
  | .ctRem _ => true
  | .ctOff _ => true
  | .ctPhase _ => true
  | .ctMoveOff _ => true
  | .ctMoveRem _ => true
  | .zeroTmo => true
  | .setStatus _ => true
  | _ => false

@[simp] theorem CtView.after_on (v : CtView) (a : Act) : (v.after a).pipe.on = v.pipe.on := by
  cases a
  case hal h => exact HalPipe.respond_on h v.pipe
  all_goals rfl

theorem CtView.foldl_after_fg (l : List Act) (v : CtView) (fg : List Micro) :
    l.foldl CtView.after { v with fg := fg } = { l.foldl CtView.after v with fg := fg } := by
  induction l generalizing v with
  | nil => rfl
  | cons a l ih =>
    have hcomm : CtView.after { v with fg := fg } a = { v.after a with fg := fg } := by
      cases a <;> rfl
    rw [List.foldl_cons, List.foldl_cons, hcomm, ih]

section
variable {u : State} {v : CtView} (ha : (u.pipe Config.pControl).alloc = true) (hon : v.pipe.on = true)
include ha hon

theorem act_ctAt {a : Act} (hl : a.inView = true) : act a (u.ctAt v) = u.ctAt (v.after a) := by
  cases a
  case hal h => exact State.ctAt_doHal ha hon hl
  case ctBuf | ctRem | ctOff | ctPhase | ctMoveOff | ctMoveRem | zeroTmo | setStatus => rfl
  all_goals cases hl

theorem acts_ctAt {l : List Act} (hl : l.all Act.inView = true) :
    acts l (u.ctAt v) = u.ctAt (l.foldl CtView.after v) := by
  induction l generalizing v with
  | nil => rfl
  | cons a l ih =>
    simp only [List.all_cons, Bool.and_eq_true] at hl
    simp only [acts, act_ctAt ha hon hl.1, List.foldl_cons]
    exact ih (by simpa using hon) hl.2

end

/-! ### A control transfer one micro-step at a time -/

section
variable {u u' : State} {v w : CtView} {rest : List Micro}

/-- A micro-step that runs. -/
theorem RunsTo.ctMicro {m : Micro} (hfg : v.fg = m :: rest)
    (hm : micro m (u.ctAt { v with fg := rest }) = .ran (u'.ctAt w)) : RunsTo 1 (u.ctAt v) (u'.ctAt w) :=
  .of_micro (State.ctAt_calm u v) hfg hm (State.ctAt_calm u' w)

/-- A straight-line micro-step that changes nothing of the view. -/
theorem RunsTo.ctAct {a : Act} (hfg : v.fg = .act a :: rest)
    (ha : act a (u.ctAt { v with fg := rest }) = u'.ctAt { v with fg := rest }) :
    RunsTo 1 (u.ctAt v) (u'.ctAt { v with fg := rest }) :=
  .ctMicro hfg (congrArg _ ha)

/-- A poll that is pending, and the next event. -/
theorem RunsTo.ctPending {m : Micro} {e : Event} {es : List Event} (hfg : v.fg = m :: rest) (hes : v.events = e :: es)
    (hm : micro m (u.ctAt { v with fg := rest }) = .pending (u.ctAt v))
    (ho : occur e (u.ctAt { v with events := es }) = .next (u'.ctAt w)) : RunsTo 1 (u.ctAt v) (u'.ctAt w) :=
  .of_pending (State.ctAt_calm u v) hfg hm (i := ⟨.atWait, e⟩) (later := atWait es) (by simp [hes, atWait]) ho

/-- Straight-line micro-steps of the transfer itself. -/
theorem RunsTo.ctActs {l : List Act} (ha : (u.pipe Config.pControl).alloc = true) (hon : v.pipe.on = true)
    (hfg : v.fg = actSteps l ++ rest) (hl : l.all Act.inView = true) :
    RunsTo l.length (u.ctAt v) (u.ctAt (l.foldl CtView.after { v with fg := rest })) := by
  rw [← acts_ctAt (v := { v with fg := rest }) ha hon hl]
  exact .of_acts (State.ctAt_calm u v) hfg

end

/-! ### The waits of a control transfer (rule R212, rule R222) -/

/-- Nothing keeps a control transfer on `u` from going on: no emergency, the bus runs, the control pipe is configured, and
no wait has a budget of nothing. -/
structure State.CtRunning (u : State) : Prop where
  emerg : u.flags.emerg = false
  sofgen : u.en.sofgen = true
  alloc : (u.pipe Config.pControl).alloc = true
  setupBudget : 0 < u.cfg.ctrlSetupTimeout
  dataBudget : 0 < u.cfg.ctrlDataTimeout
  statusBudget : 0 < u.cfg.ctrlStatusTimeout

/-- The control pipe is enabled and no event of it is pending. -/
structure HalPipe.Clear (h : HalPipe) : Prop where
  on : h.on = true
  setupAck : h.setupAck = false
  inReady : h.inReady = false
  outReady : h.outReady = false
  stall : h.stall = false
  error : h.error = 0#5

theorem State.CtRunning.budget_pos {u : State} (hu : u.CtRunning) (w : CtWaitFor) : 0 < w.budget u.cfg := by
  cases w
  case setupAck => exact hu.setupBudget
  case dataIn | dataOut => exact hu.dataBudget
  case statusOut | statusIn => exact hu.statusBudget

theorem HalPipe.Clear.not_ready {h : HalPipe} (hc : h.Clear) (w : CtWaitFor) : w.ready h = false := by
  cases w
  case setupAck => exact hc.setupAck
  case dataIn | statusIn => exact hc.inReady
  case dataOut | statusOut => exact hc.outReady

/-- What a device's answer makes of what the HAL holds of the control pipe. -/
def HalPipe.answered (e : Event) (h : HalPipe) : HalPipe :=
  match e with
  | .setupAck _ => { h.bankFree with setupAck := true }
  | .inPacket _ bytes => h.receive bytes bytes.length
  | .outReady _ => { h.bankFree with outReady := true }
  | _ => h

@[simp] theorem HalPipe.answered_on (e : Event) (h : HalPipe) : (h.answered e).on = h.on := by
  cases e <;> simp only [HalPipe.answered, HalPipe.bankFree, HalPipe.receive] <;> split <;> rfl

theorem HalPipe.receive_inReady (held : List Byte) (n : Nat) (h : HalPipe) : (h.receive held n).inReady = true := by
  unfold HalPipe.receive
  split
  · assumption
  · rfl

/-- The device answers on the control pipe, with no more bytes than its FIFO holds. -/
def Event.answers (c : Config) (e : Event) : Prop :=
  match e with
  | .setupAck p => p = Config.pControl
  | .inPacket p bytes => p = Config.pControl ∧ bytes.length ≤ c.cap Config.pControl
  | .outReady p => p = Config.pControl
  | _ => False

theorem State.ctAt_raiseOn {u : State} (hs : u.en.sofgen = true) (v : CtView) (f : HalPipe → HalPipe) :
    (u.ctAt v).raiseOn Config.pControl f = u.ctAt { v with pipe := f v.pipe } := by
  rw [State.raiseOn, State.ctAt_en, if_pos hs, State.ctAt_onPipe]

theorem occur_ctAt {u : State} (hs : u.en.sofgen = true) (v : CtView) {e : Event} (he : e.answers u.cfg) :
    occur e (u.ctAt v) = .next (u.ctAt { v with pipe := v.pipe.answered e }) := by
  have hraise := State.ctAt_raiseOn hs v
  cases e
  case setupAck p =>
    cases he
    exact congrArg _ (hraise _)
  case outReady p =>
    cases he
    exact congrArg _ (hraise _)
  case inPacket p bytes =>
    obtain ⟨rfl, hfit⟩ := he
    have hheld : (u.ctAt v).fitFifo Config.pControl bytes = bytes := State.fitFifo_of_le hfit
    rw [occur, hheld, hraise]
    rfl
  all_goals cases he

section
variable {u : State} {v : CtView} {w : CtWaitFor} {rest : List Micro}

theorem ctPoll_of_ready (hr : w.ready v.pipe = true) :
    micro (.ctPoll w) (u.ctAt v) = .ran (u.ctAt { v with st := Status.good }) := by
  simp only [micro, ctPoll, State.ctAt_halPipe, hr, if_pos, State.ctAt_setSt]

theorem ctPoll_of_clear (hu : u.CtRunning) (hc : v.pipe.Clear) (ht : v.tmo = 0) (hfg : v.fg = .ctPoll w :: rest) :
    micro (.ctPoll w) (u.ctAt { v with fg := rest }) = .pending (u.ctAt v) := by
  have hb : ¬ w.budget u.cfg ≤ v.tmo := Nat.not_le.mpr (ht ▸ hu.budget_pos w)
  simp only [micro, ctPoll, State.ctAt_halPipe, hc.not_ready w, State.ctAt_flags, hu.emerg, State.ctAt_cfg,
    State.ctAt_cnt, hb, hc.error, hc.stall, decide_false, Bool.and_false, ne_eq, not_true, if_false, Bool.false_eq_true,
    stay, State.ctAt_push, List.cons_append, List.nil_append, ← hfg]

/-- A control wait to which the device gives the answer it waits for. -/
theorem RunsTo.ctWait {e : Event} {es : List Event} (hu : u.CtRunning) (hc : v.pipe.Clear) (ht : v.tmo = 0)
    (hfg : v.fg = .ctPoll w :: rest) (hes : v.events = e :: es) (he : e.answers u.cfg)
    (hr : w.ready (v.pipe.answered e) = true) :
    RunsTo 2 (u.ctAt v) (u.ctAt { v with pipe := v.pipe.answered e, st := Status.good, fg := rest, events := es }) :=
  have hanswer := occur_ctAt hu.sofgen { v with events := es } he
  have hpending := RunsTo.ctPending hfg hes (ctPoll_of_clear hu hc ht hfg) hanswer
  hpending.trans (.ctMicro hfg (ctPoll_of_ready hr))

/-- What a phase does between two choices: straight-line micro-steps, a wait that the device ends, straight-line
micro-steps. -/
theorem RunsTo.ctExchange {l l' : List Act} {e : Event} {es : List Event} (hu : u.CtRunning) (hon : v.pipe.on = true)
    (hfg : v.fg = actSteps l ++ .ctPoll w :: (actSteps l' ++ rest)) (hes : (l.foldl CtView.after v).events = e :: es)
    (hl : l.all Act.inView = true) (hl' : l'.all Act.inView = true) (hc : (l.foldl CtView.after v).pipe.Clear)
    (ht : (l.foldl CtView.after v).tmo = 0) (he : e.answers u.cfg)
    (hr : w.ready ((l.foldl CtView.after v).pipe.answered e) = true) :
    RunsTo (l.length + 2 + l'.length) (u.ctAt v) (u.ctAt (l'.foldl CtView.after { l.foldl CtView.after v with
      pipe := (l.foldl CtView.after v).pipe.answered e, st := Status.good, fg := rest, events := es })) := by
  have hsend := RunsTo.ctActs hu.alloc hon hfg hl
  rw [CtView.foldl_after_fg] at hsend
  exact (hsend.trans (.ctWait hu hc ht rfl hes he hr)).trans (.ctActs hu.alloc (by simpa using hc.on) rfl hl')

end

/-! ### The phases of a control transfer -/

/-- What is not the view's of a state in which a start of frame has been presented (rule R421). -/
def State.framed (u : State) : State :=
  { u with flags := { u.flags with evtSof := true }, jobs := countJobs u.jobs, hal := { u.hal with sof := false } }

theorem evSofBody_ctAt {u : State} (hie : u.en.sofie = true) (v : CtView) :
    ∃ n, evSofBody (u.ctAt v) = u.framed.ctAt { v with tmo := n } := by
  by_cases hlt : v.tmo < 0xFFFF
  · refine ⟨v.tmo + 1, ?_⟩
    simp only [evSofBody, State.ctAt_en, hie, State.ctAt_cnt, hlt, decide_true, Bool.and_true, if_true]
    rfl
  · refine ⟨v.tmo, ?_⟩
    simp only [evSofBody, State.ctAt_en, hie, State.ctAt_cnt, hlt, decide_false, Bool.and_false, if_true]
    rfl

/-- A start of frame comes to the sequencer at once when nothing above it is pending (rule R430). -/
theorem sequencer_of_sof {s : State} (h : OnlySof s) (hgen : s.en.sofgen = true) (hsof : s.hal.sof = true) :
    sequencer s = .next (evSofBody s) := by
  obtain ⟨hvbus, hdisc, hrole, hwake⟩ := h
  have hsrc : s.pendingSource = some .sof := by simp [State.pendingSource, hvbus, hdisc, hrole, hwake, hgen, hsof]
  rw [sequencer, hsrc]
  rfl

/-- The wait for a start of frame (rule R212), and the start of frame. -/
theorem RunsTo.ctFrame {u : State} {v : CtView} {rest : List Micro} {es : List Event} (hu : u.CtRunning)
    (hsof : OnlySof u) (hev : u.flags.evtSof = false) (hie : u.en.sofie = true) (hfg : v.fg = .ctPollSof :: rest)
    (hes : v.events = .sof :: .irq :: es) :
    ∃ n, RunsTo 3 (u.ctAt v) (u.framed.ctAt { v with tmo := n, fg := rest, events := es }) := by
  have hpend : ∀ (u' : State) (v' : CtView), u'.flags = u.flags → v'.fg = .ctPollSof :: rest →
      micro .ctPollSof (u'.ctAt { v' with fg := rest }) = .pending (u'.ctAt v') := by
    intro u' v' hflags hfg'
    simp only [micro, pollSof, State.ctAt_flags, hflags, hev, hu.emerg, Bool.false_eq_true, if_false, stay,
      State.ctAt_push, List.cons_append, List.nil_append, ← hfg']
  let raised : State := { u with hal := { u.hal with sof := true } }
  have hraised : RunsTo 1 (u.ctAt v) (raised.ctAt { v with events := .irq :: es }) := by
    refine .ctPending hfg hes (hpend u v rfl hfg) ?_
    simp only [occur, State.ctAt, State.setHal, hu.sofgen, Bool.or_true, raised]
  obtain ⟨n, hbody⟩ := evSofBody_ctAt (u := raised) hie { v with events := es }
  have hentered : sequencer (raised.ctAt { v with events := es }) =
      .next (u.framed.ctAt { v with tmo := n, events := es }) :=
    (sequencer_of_sof (s := raised.ctAt { v with events := es }) hsof hu.sofgen rfl).trans (congrArg _ hbody)
  have hpresented := RunsTo.ctPending (v := { v with events := .irq :: es }) hfg rfl
    (hpend raised { v with events := .irq :: es } rfl hfg) hentered
  exact ⟨n, (hraised.trans hpresented).trans (.ctMicro hfg rfl)⟩

/-- The HAL actions of a SETUP phase that sends this request (rule R213). -/
def Setup.actions (r : Setup) : List HalAction :=
  [HalAction.resetPipe Config.pControl, .setToken Config.pControl .setup] ++
  (List.range 8).map (fun k => HalAction.fifoWrite Config.pControl (r.byte k)) ++
  [HalAction.unfreezePipe Config.pControl, .sendSetup Config.pControl]

theorem acts_fifoSetup {u : State} {v : CtView} (ha : (u.pipe Config.pControl).alloc = true) (hon : v.pipe.on = true)
    (ks : List Nat) :
    ∃ fifo, acts (ks.map Act.fifoSetup) (u.ctAt v) = u.ctAt { v with
      pipe := { v.pipe with fifo := fifo }
      out := v.out ++ ks.map fun k => HalAction.fifoWrite Config.pControl (u.sr.byte k) } := by
  induction ks generalizing v with
  | nil => exact ⟨v.pipe.fifo, by simp [acts]⟩
  | cons k ks ih =>
    obtain ⟨f, hf⟩ := State.ctAt_fifoWrite ha hon (u.sr.byte k)
    obtain ⟨g, hg⟩ := ih (v := { v with
      pipe := { v.pipe with fifo := f }, out := v.out ++ [.fifoWrite Config.pControl (u.sr.byte k)] }) hon
    refine ⟨g, ?_⟩
    simp only [List.map_cons, acts, act, State.ctAt_sr, hf, hg, List.append_assoc, List.cons_append, List.nil_append]

/-- The control pipe is marked as frozen or not (`PIPE[0].frozen`). -/
def State.ctFrozen (b : Bool) (u : State) : State :=
  { u with pipes := tableSet Pipe.unallocated u.pipes Config.pControl { u.pipe Config.pControl with frozen := b } }

theorem State.ctFrozen_pipe (b : Bool) (u : State) (p : Nat) :
    (u.ctFrozen b).pipe p = if p = Config.pControl then { u.pipe Config.pControl with frozen := b } else u.pipe p :=
  State.setPipe_pipe ..

theorem State.CtRunning.ctFrozen {u : State} (hu : u.CtRunning) (b : Bool) : (u.ctFrozen b).CtRunning :=
  { hu with alloc := by simpa [State.ctFrozen_pipe] using hu.alloc }

/-- The straight-line micro-steps of the SETUP phase (rule R213). -/
def ctSetupActs : List Act :=
  [.ctPhase .setup, .hal (.resetPipe Config.pControl), .hal (.setToken Config.pControl .setup)] ++
    (List.range 8).map Act.fifoSetup ++ [.hal (.unfreezePipe Config.pControl)] ++ [.setFrozen Config.pControl false] ++
    [.hal (.sendSetup Config.pControl), .zeroTmo]

theorem acts_ctSetupActs {u : State} {v : CtView} (hu : u.CtRunning) (hon : v.pipe.on = true) :
    ∃ fifo, acts ctSetupActs (u.ctAt v) = (u.ctFrozen false).ctAt { v with
      pipe := { v.pipe.reset with token := .setup, fifo := fifo, frozen := false, sent := true }
      out := v.out ++ u.sr.actions, ct := { v.ct with phase := .setup }, tmo := 0 } := by
  have hfrozen : ∀ v' : CtView, acts [.setFrozen Config.pControl false] (u.ctAt v') = (u.ctFrozen false).ctAt v' :=
    fun _ => rfl
  let opening : List Act :=
    [.ctPhase .setup, .hal (.resetPipe Config.pControl), .hal (.setToken Config.pControl .setup)]
  have hopening : acts opening (u.ctAt v) = u.ctAt (opening.foldl CtView.after v) := acts_ctAt hu.alloc hon rfl
  obtain ⟨fifo, hfifo⟩ := acts_fifoSetup hu.alloc (v := opening.foldl CtView.after v) hon (List.range 8)
  refine ⟨fifo, ?_⟩
  rw [ctSetupActs, acts_append, acts_append, acts_append, acts_append, hopening, hfifo, acts_ctAt hu.alloc ?on rfl,
    hfrozen, acts_ctAt (hu.ctFrozen false).alloc ?on' rfl]
  case on | on' => exact hon
  simp [CtView.after, HalPipe.respond, Setup.actions, opening]

/-- The SETUP phase of a control transfer, acknowledged by the device (rule R213). -/
theorem RunsTo.ctSetup {u : State} {v : CtView} {rest : List Micro} {es : List Event} (hu : u.CtRunning)
    (hon : v.pipe.on = true)
    (hfg : v.fg = actSteps ctSetupActs ++ .ctPoll .setupAck :: halStep (.ackSetup Config.pControl) :: rest)
    (hes : v.events = .setupAck Config.pControl :: es) :
    ∃ h : HalPipe, h.Clear ∧ RunsTo 18 (u.ctAt v) ((u.ctFrozen false).ctAt { v with
      pipe := h, out := v.out ++ u.sr.actions ++ [.ackSetup Config.pControl], ct := { v.ct with phase := .setup }
      st := Status.good, tmo := 0, fg := rest, events := es }) := by
  let waiting : List Micro := .ctPoll .setupAck :: halStep (.ackSetup Config.pControl) :: rest
  obtain ⟨fifo, hacts⟩ := acts_ctSetupActs (v := { v with fg := waiting }) hu hon
  have hsend := RunsTo.of_acts (State.ctAt_calm u v) hfg
  rw [State.ctAt_setFg, hacts] at hsend
  have hu' := hu.ctFrozen false
  have hwait := hsend.trans (.ctWait hu' ⟨hon, rfl, rfl, rfl, rfl, rfl⟩ rfl rfl hes rfl rfl)
  have hack := hwait.trans (.ctActs (l := [.hal (.ackSetup Config.pControl)]) hu'.alloc hon rfl rfl)
  exact ⟨{ v.pipe.reset with token := .setup, fifo := [], frozen := false }, ⟨hon, rfl, rfl, rfl, rfl, rfl⟩, hack⟩

/-- What is not the view's of a state in which a control transfer has been entered (rule R211). -/
def State.ctEntered (r : Setup) (u : State) : State :=
  { u with
    sr := r, en := { u.en with sofieSaveFg := u.en.sofie, sofie := true }, flags := { u.flags with evtSof := false } }

/-- What is not the view's of a state whose control transfer the device has acknowledged: the entry (rule R211), the first
start of frame and the SETUP phase are over. -/
def State.ctOpened (s : State) : State := (s.ctEntered s.request).framed.ctFrozen false

theorem ControlReady.ctRunning {s : State} (h : ControlReady s) : s.CtRunning := by
  obtain ⟨-, hemerg, hgen, hlive, -, hsetup, hdata, hstatus⟩ := h
  simp only [State.live, Bool.and_eq_true] at hlive
  exact ⟨hemerg, hgen, hlive.2, hsetup, hdata, hstatus⟩

theorem ControlReady.on {s : State} (h : ControlReady s) : (s.halPipe Config.pControl).on = true := by
  obtain ⟨-, -, -, hlive, -⟩ := h
  simp only [State.live, Bool.and_eq_true] at hlive
  exact hlive.1

theorem State.CtRunning.of_eq {u u' : State} (hu : u.CtRunning) (hcfg : u'.cfg = u.cfg)
    (hemerg : u'.flags.emerg = u.flags.emerg) (hgen : u'.en.sofgen = u.en.sofgen) (hpipes : u'.pipes = u.pipes) :
    u'.CtRunning := by
  have hpipe : u'.pipe Config.pControl = u.pipe Config.pControl := congrArg (List.getD · _ _) hpipes
  exact ⟨hemerg.trans hu.emerg, hgen.trans hu.sofgen, hpipe ▸ hu.alloc, hcfg ▸ hu.setupBudget, hcfg ▸ hu.dataBudget,
    hcfg ▸ hu.statusBudget⟩

theorem ControlReady.ctOpened {s : State} (h : ControlReady s) : s.ctOpened.CtRunning :=
  have hframed : (s.ctEntered s.request).framed.CtRunning := h.ctRunning.of_eq rfl rfl rfl rfl
  hframed.ctFrozen false

/-- The straight-line micro-steps of the entry (rule R211). -/
def ctEntryActs (r : Setup) (b : CtBuf) : List Act :=
  [.ctSetup r, .ctBuf b, .ctRem 0, .ctOff 0, .critSofPush, .ctPhase .waitSof, .clearEvtSof]

theorem ctProg_append (r : Setup) (b : CtBuf) (rest : List Micro) :
    ctProg r b ++ rest = .ctCheck r b :: (actSteps (ctEntryActs r b) ++ .ctPollSof :: (actSteps ctSetupActs ++
      .ctPoll .setupAck :: halStep (.ackSetup Config.pControl) :: .ctStage :: .ctExit :: rest)) := by
  simp [ctProg, ctEntryActs, ctSetupActs, actSteps]

theorem acts_ctEntryActs (r : Setup) (b : CtBuf) (u : State) (v : CtView) :
    acts (ctEntryActs r b) (u.ctAt v) = (u.ctEntered r).ctAt { v with ct := ⟨.waitSof, 0, 0, b⟩ } := by
  simp only [ctEntryActs, acts, act, State.ctAt_setSr, State.ctAt_setCt, State.ctAt_ct, State.ctAt_sofPush,
    State.ctAt_setFlags, State.ctAt_flags, State.ctEntered]
  rfl

/-- The entry, the first start of frame and the SETUP phase of TRANSFER_CONTROL, acknowledged by the device (rule R211 to
rule R213). -/
theorem RunsTo.ctOpen {s : State} {b : BitVec 8} {es : List Event} (hready : ControlReady s)
    (hcap : s.request.wLength.toNat ≤ (bufferOperand b s.args).capacity s.cfg)
    (hin : s.inputs = atWait (.sof :: .irq :: .setupAck Config.pControl :: es)) :
    ∃ h : HalPipe, h.Clear ∧
      RunsTo 29 (s.setFg (ctProg s.request (bufferOperand b s.args) ++ [.act .resStatus])) (s.ctOpened.ctAt {
        pipe := h, out := s.request.actions ++ [.ackSetup Config.pControl]
        ct := ⟨.setup, 0, 0, bufferOperand b s.args⟩, st := Status.good, tmo := 0
        fg := [.ctStage, .ctExit, .act .resStatus], events := es }) := by
  have hu := hready.ctRunning
  obtain ⟨-, -, -, -, hsof, -⟩ := id hready
  rw [ctProg_append, State.ctAt_self hready.on hin]
  have hcheck : ∀ v : CtView, micro (.ctCheck s.request (bufferOperand b s.args)) (s.ctAt v) = .ran (s.ctAt v) :=
    fun v => if_neg (Nat.not_lt.mpr hcap)
  have hu' : (s.ctEntered s.request).CtRunning := hu.of_eq rfl rfl rfl rfl
  let setup : List Micro := actSteps ctSetupActs ++
    .ctPoll .setupAck :: halStep (.ackSetup Config.pControl) :: [.ctStage, .ctExit, .act .resStatus]
  let waiting : CtView := {
    pipe := s.halPipe Config.pControl, out := [], ct := ⟨.waitSof, 0, 0, bufferOperand b s.args⟩
    st := s.st, tmo := s.cnt.tmo, fg := .ctPollSof :: setup
    events := .sof :: .irq :: .setupAck Config.pControl :: es }
  let entry := actSteps (ctEntryActs s.request (bufferOperand b s.args)) ++ .ctPollSof :: setup
  have hchecked := RunsTo.ctMicro (rest := entry) (v := { waiting with
    ct := s.ct, fg := .ctCheck s.request (bufferOperand b s.args) :: entry }) rfl (hcheck _)
  have hentry := RunsTo.of_acts (l := ctEntryActs s.request (bufferOperand b s.args))
    (State.ctAt_calm s { waiting with ct := s.ct, fg := entry }) rfl
  rw [State.ctAt_setFg, acts_ctEntryActs] at hentry
  obtain ⟨n, hframe⟩ := RunsTo.ctFrame hu' hsof rfl rfl (v := waiting) rfl rfl
  have hframed : (s.ctEntered s.request).framed.CtRunning := hu'.of_eq rfl rfl rfl rfl
  obtain ⟨h, hclear, hsetup⟩ := RunsTo.ctSetup hframed (v := {
    waiting with tmo := n, fg := setup, events := .setupAck Config.pControl :: es }) hready.on rfl rfl
  exact ⟨h, hclear, ((hchecked.trans hentry).trans hframe).trans hsetup⟩

/-- The straight-line micro-steps that open a data stage (rule R214). -/
def ctStageActs (u : State) (token : Token) : List Act :=
  [.ctRem u.sr.wLength.toNat, .ctOff 0, .hal (.setToken Config.pControl token)]

/-- The choice of the stage by the direction of the request (rule R214). -/
theorem RunsTo.ctStage {u : State} {v : CtView} {rest : List Micro} (hu : u.CtRunning) (hon : v.pipe.on = true)
    (hfg : v.fg = .ctStage :: rest) :
    RunsTo 4 (u.ctAt v) (u.ctAt { v with
      pipe := { v.pipe with token := if u.sr.dirIn then .receive else .send }
      out := v.out ++ [.setToken Config.pControl (if u.sr.dirIn then .receive else .send)]
      ct := { v.ct with rem := u.sr.wLength.toNat, off := 0 }
      fg := (if u.sr.dirIn then .ctInLoop else .ctOutLoop) :: rest }) := by
  have hchosen : ∀ (token : Token) (loop : Micro), micro .ctStage (u.ctAt { v with fg := rest }) =
      .ran (u.ctAt { v with fg := actSteps (ctStageActs u token) ++ loop :: rest }) →
      RunsTo 4 (u.ctAt v) (u.ctAt { v with
        pipe := { v.pipe with token := token }, out := v.out ++ [.setToken Config.pControl token]
        ct := { v.ct with rem := u.sr.wLength.toNat, off := 0 }, fg := loop :: rest }) :=
    fun token loop h => (RunsTo.ctMicro hfg h).trans (.ctActs (l := ctStageActs u token) hu.alloc hon rfl rfl)
  cases hd : u.sr.dirIn
  · refine hchosen .send .ctOutLoop ?_
    simp only [micro, State.ctAt_sr, hd]
    rfl
  · refine hchosen .receive .ctInLoop ?_
    simp only [micro, State.ctAt_sr, hd]
    rfl

/-- The OUT status stage (rule R219). -/
theorem RunsTo.ctStatusOut {u : State} {v : CtView} {rest : List Micro} {es : List Event} (hu : u.CtRunning)
    (hc : v.pipe.Clear) (hfg : v.fg = ctStatusOut ++ rest) (hes : v.events = .outReady Config.pControl :: es) :
    RunsTo 9 (u.ctAt v) (u.ctAt { v with
      pipe := { v.pipe with token := .send, frozen := false, fifo := [], sent := false, outReady := false }
      out := v.out ++ [.setToken Config.pControl .send, .unfreezePipe Config.pControl, .sendOut Config.pControl,
        .ackOut Config.pControl]
      ct := { v.ct with phase := .statusOut }, st := Status.good, tmo := 0, fg := rest, events := es }) := by
  have h := RunsTo.ctExchange (w := .statusOut) (l := [.ctPhase .statusOut, .hal (.setToken Config.pControl .send),
    .hal (.unfreezePipe Config.pControl), .hal (.sendOut Config.pControl), .zeroTmo])
    (l' := [.hal (.ackOut Config.pControl), .setStatus Status.good]) hu hc.on hfg hes rfl rfl { hc with } rfl rfl rfl
  simpa [CtView.after, HalPipe.respond, HalPipe.answered, HalPipe.bankFree] using h

/-- The IN status stage (rule R221). -/
theorem RunsTo.ctStatusIn {u : State} {v : CtView} {rest : List Micro} {es : List Event} (hu : u.CtRunning)
    (hc : v.pipe.Clear) (hfg : v.fg = ctStatusIn ++ rest) (hes : v.events = .inPacket Config.pControl [] :: es) :
    RunsTo 9 (u.ctAt v) (u.ctAt { v with
      pipe := { v.pipe with token := .receive, frozen := false, inReady := false, byteCount := 0, fifo := [] }
      out := v.out ++ [.setToken Config.pControl .receive, .unfreezePipe Config.pControl, .sendIn Config.pControl,
        .ackIn Config.pControl]
      ct := { v.ct with phase := .statusIn }, st := Status.good, tmo := 0, fg := rest, events := es }) := by
  have h := RunsTo.ctExchange (w := .statusIn) (l := [.ctPhase .statusIn, .hal (.setToken Config.pControl .receive),
    .hal (.unfreezePipe Config.pControl), .hal (.sendIn Config.pControl), .zeroTmo])
    (l' := [.hal (.ackIn Config.pControl), .setStatus Status.good]) hu hc.on hfg hes rfl rfl { hc with } rfl
    ⟨rfl, Nat.zero_le _⟩ (HalPipe.receive_inReady ..)
  simpa [CtView.after, HalPipe.respond, HalPipe.answered, HalPipe.receive, hc.inReady] using h

/-- An IN packet of the data stage, up to its arrival (rule R215). -/
theorem RunsTo.ctInPacket {u : State} {v : CtView} {rest : List Micro} {es : List Event} {bytes : List Byte}
    (hu : u.CtRunning) (hc : v.pipe.Clear) (htoken : v.pipe.token = .receive) (hrem : 0 < v.ct.rem)
    (hcap : bytes.length ≤ u.cfg.cap Config.pControl)
    (hfg : v.fg = .ctInLoop :: rest) (hes : v.events = .inPacket Config.pControl bytes :: es) :
    RunsTo 8 (u.ctAt v) (u.ctAt { v with
      pipe := { v.pipe with frozen := true, inReady := true, byteCount := bytes.length, fifo := bytes }
      out := v.out ++ [.unfreezePipe Config.pControl, .sendIn Config.pControl, .freezePipe Config.pControl]
      ct := { v.ct with phase := .dataIn }, st := Status.good, tmo := 0, fg := .ctInTake :: rest, events := es }) := by
  have hloop : RunsTo 1 (u.ctAt v) (u.ctAt { v with fg := Machine.ctInPacket ++ rest }) :=
    .ctMicro hfg (by simp only [micro, State.ctAt_ct, hrem, if_true]; rfl)
  have h := hloop.trans (.ctExchange (w := .dataIn) (rest := .ctInTake :: rest)
    (l := [.ctPhase .dataIn, .hal (.unfreezePipe Config.pControl), .hal (.sendIn Config.pControl), .zeroTmo])
    (l' := [.hal (.freezePipe Config.pControl)]) hu hc.on rfl hes rfl rfl { hc with } rfl ⟨rfl, hcap⟩
    (HalPipe.receive_inReady ..))
  simpa [CtView.after, HalPipe.respond, HalPipe.answered, HalPipe.receive, HalPipe.listening, hc.inReady, hc.on,
    htoken] using h

/-- `CACHE_LEN` is written after an IN request into `CACHE` and after no other (rule R224). -/
theorem RunsTo.ctLen {u : State} {v : CtView} {rest : List Micro} (hfg : v.fg = .ctLen :: rest) :
    RunsTo 2 (u.ctAt v) ((u.setCacheLen (if u.sr.dirIn = true ∧ v.ct.buf = .cache then v.ct.off else u.cacheLen)).ctAt
      { v with fg := rest }) := by
  by_cases h : u.sr.dirIn = true ∧ v.ct.buf = .cache
  · rw [if_pos h]
    have hlatch : micro .ctLen (u.ctAt { v with fg := rest }) =
        .ran (u.ctAt { v with fg := .act .latchCacheLen :: rest }) := by
      simp only [micro, State.ctAt_sr, State.ctAt_ct, h.1, h.2]
      rfl
    exact (RunsTo.ctMicro hfg hlatch).trans (.ctMicro rfl rfl)
  · rw [if_neg h]
    exact (RunsTo.ctMicro (u' := u.setCacheLen u.cacheLen) (w := { v with fg := rest }) hfg
      (if_neg fun hlen => h ((Bool.and_eq_true_iff.mp hlen).imp_right of_decide_eq_true))).mono (Nat.le_succ 1)

/-- The exit of a control transfer that ends with `Good` (rule R224), with its result. -/
def State.ctClosed (c : CtRegs) (u : State) : State :=
  { u with
    pipes := (u.ctFrozen true).pipes, en := { u.en with sofie := u.en.sofieSaveFg }
    cacheLen := if u.sr.dirIn = true ∧ c.buf = .cache then c.off else u.cacheLen
    res := { u.res with status := Status.good } }

theorem RunsTo.ctExit {u : State} {v : CtView} (hu : u.CtRunning) (hon : v.pipe.on = true) (hst : v.st = Status.good)
    (hfg : v.fg = [.ctExit, .act .resStatus]) :
    RunsTo 11 (u.ctAt v) ((u.ctClosed v.ct).ctAt { v with
      pipe := { v.pipe with frozen := true }, out := v.out ++ [.freezePipe Config.pControl]
      ct := ⟨.idle, 0, 0, .none⟩, st := Status.good, fg := [] }) := by
  have hexit : RunsTo 1 (u.ctAt v)
      (u.ctAt { v with st := Status.good, fg := ctExitSteps Status.good ++ [.act .resStatus] }) :=
    .ctMicro hfg (by simp only [micro, State.ctAt_st, ← hst]; rfl)
  have hfreeze := hexit.trans (.ctActs (l := [.hal (.freezePipe Config.pControl)]) hu.alloc hon rfl rfl)
  have hlen := (hfreeze.trans (.ctAct (u' := u.ctFrozen true) rfl rfl)).trans (.ctLen rfl)
  have hregs := hlen.trans (.ctActs (l := [.ctPhase .idle, .ctRem 0, .ctOff 0, .ctBuf .none])
    (hu.ctFrozen true).alloc hon rfl rfl)
  exact (hregs.trans (.ctAct (a := .critSofPop) (u' := State.sofPop _) rfl rfl)).trans
    (.ctAct (a := .resStatus) (u' := u.ctClosed v.ct) rfl rfl)

/-! ### Bytes stored in a row -/

/-- These bytes written from an address on. -/
def Memory.writeBytes (m : List Host.Cell) : Nat → List Byte → List Host.Cell
  | _, [] => m
  | a, x :: xs => Memory.writeBytes (Memory.write m a x) (a + 1) xs

theorem Memory.read_writeBytes (m : List Host.Cell) (a : Nat) (l : List Byte) (hm : Memory.wf m = true) (x : Nat) :
    Memory.read (Memory.writeBytes m a l) x =
      if a ≤ x ∧ x < a + l.length then l.getD (x - a) 0#8 else Memory.read m x := by
  induction l generalizing m a with
  | nil => rw [Memory.writeBytes, if_neg (by simp)]
  | cons y ys ih =>
    rw [Memory.writeBytes, ih _ _ (Memory.write_wf m a y hm), Memory.read_write m a x y hm, List.length_cons]
    by_cases hx : x = a
    · subst hx
      simp
    · by_cases hin : a + 1 ≤ x ∧ x < a + 1 + ys.length
      · obtain ⟨k, rfl⟩ := Nat.exists_eq_add_of_le hin.1
        have hplace : a + 1 + k - a = k + 1 := by omega
        rw [if_pos hin, if_pos (by omega), Nat.add_sub_cancel_left, hplace]
        rfl
      · rw [if_neg hin, if_neg hx, if_neg (by omega)]

/-- These bytes stored in a buffer operand from an offset on. -/
def State.store (b : CtBuf) (off : Nat) (l : List Byte) (s : State) : State :=
  match b with
  | .none => s
  | .cache => s.setCache (Memory.writeBytes s.cache off l)
  | .host c _ => s.setHbuf (Memory.writeBytes s.hbuf (hostAddr c off) l)

theorem State.store_cons (b : CtBuf) (off : Nat) (x : Byte) (xs : List Byte) (s : State) :
    s.store b off (x :: xs) = (s.store b off [x]).store b (off + 1) xs := by
  cases b with
  | none => rfl
  | cache => rfl
  | host c cap =>
    have hnext : hostAddr c (off + 1) = hostAddr c off + 1 := (Nat.add_assoc _ _ _).symm
    simp only [State.store, hnext]
    rfl

theorem State.store_nil (b : CtBuf) (off : Nat) (s : State) : s.store b off [] = s := by
  cases b <;> rfl

/-- Storing bytes changes the two memories only. -/
theorem State.store_eq (b : CtBuf) (off : Nat) (l : List Byte) (s : State) :
    s.store b off l = (s.setCache (s.store b off l).cache).setHbuf (s.store b off l).hbuf := by
  cases b <;> rfl

theorem State.CtRunning.store {u : State} (hu : u.CtRunning) (b : CtBuf) (off : Nat) (l : List Byte) :
    (u.store b off l).CtRunning := by
  rw [State.store_eq]
  exact hu.of_eq rfl rfl rfl rfl

/-- Bytes stored in the buffer operand of a request are where the statements look for them (rule R82). -/
theorem BufferStored.of_store {s t : State} {b : BitVec 8} {l : List Byte} (hcache : Memory.wf s.cache = true)
    (hhbuf : Memory.wf s.hbuf = true) (hl : l.length ≤ 65536)
    (htc : t.cache = (s.store (bufferOperand b s.args) 0 l).cache)
    (hth : t.hbuf = (s.store (bufferOperand b s.args) 0 l).hbuf) : BufferStored s t b l := by
  unfold BufferStored
  split
  next hb =>
    rw [bufferOperand, if_pos hb] at htc hth
    have hread : ∀ o, t.cacheByte o = if o < l.length then l.getD o 0#8 else s.cacheByte o := by
      intro o
      have h := Memory.read_writeBytes s.cache 0 l hcache o
      rw [Nat.zero_add, Nat.sub_zero] at h
      simp only [Nat.zero_le, true_and] at h
      rw [State.cacheByte, htc]
      exact h
    have hhost : ∀ c o, t.hostByte c o = s.hostByte c o := fun c o => by
      rw [State.hostByte, hth]
      rfl
    exact ⟨⟨fun k hk => by rw [hread, if_pos hk], fun o ho => by rw [hread, if_neg (Nat.not_lt.mpr ho)]⟩, hhost⟩
  next hb =>
    rw [bufferOperand, if_neg hb] at htc hth
    have hread : ∀ c o, t.hostByte c o =
        if hostAddr s.args.buf 0 ≤ hostAddr c o ∧ hostAddr c o < hostAddr s.args.buf 0 + l.length then
          l.getD (hostAddr c o - hostAddr s.args.buf 0) 0#8 else s.hostByte c o := by
      intro c o
      rw [State.hostByte, hth]
      exact Memory.read_writeBytes s.hbuf _ l hhbuf _
    refine ⟨⟨fun k hk => ?_, fun c o ho hout => ?_⟩, fun o => ?_⟩
    · have hplace : hostAddr s.args.buf (0 + k) = hostAddr s.args.buf 0 + k := by
        simp only [hostAddr, Nat.zero_add, Nat.add_zero]
      rw [hread, hplace, if_pos (by omega), Nat.add_sub_cancel_left]
    · rw [hread, if_neg fun hin => hout ?_]
      simp only [hostAddr] at hin
      omega
    · rw [State.cacheByte, htc]
      rfl

/-! ### The IN data stage -/

section
variable {u : State} {v : CtView} {rest : List Micro} {x : Byte} {xs : List Byte}

theorem State.ctAt_readable (hu : u.CtRunning) (hon : v.pipe.on = true) :
    (u.ctAt v).readable Config.pControl = v.pipe.fifo := by
  rw [State.readable, if_pos ((State.takes_eq _ _ _).mpr (.inl (State.ctAt_live hu.alloc hon))), State.ctAt_halPipe]

theorem State.ctAt_fifoHead (hu : u.CtRunning) (hon : v.pipe.on = true) (hx : v.pipe.fifo = x :: xs) :
    (u.ctAt v).fifoHead Config.pControl = x := by
  rw [State.fifoHead, State.ctAt_readable hu hon, hx]

theorem State.ctAt_fifoPop (hu : u.CtRunning) (hon : v.pipe.on = true) (hx : v.pipe.fifo = x :: xs) :
    (u.ctAt v).fifoPop Config.pControl =
      u.ctAt { v with pipe := { v.pipe with fifo := xs }, out := v.out ++ [.fifoRead Config.pControl] } := by
  have hdraw : (u.ctAt v).drawFree Config.pControl = u.ctAt v := by rw [State.drawFree, State.ctAt_readable hu hon, hx]
  rw [State.fifoPop, hdraw, State.ctAt_doHal hu.alloc hon rfl, HalPipe.respond, hx, List.tail_cons]

/-- One received byte is taken from the FIFO and stored (rule R215). -/
theorem RunsTo.ctReadByte {k : Nat} (hu : u.CtRunning) (hon : v.pipe.on = true) (hx : v.pipe.fifo = x :: xs)
    (hcap : v.ct.off + k < v.ct.buf.capacity u.cfg) (hfg : v.fg = .ctReadByte k :: rest) :
    RunsTo 1 (u.ctAt v) ((u.store v.ct.buf (v.ct.off + k) [x]).ctAt { v with
      pipe := { v.pipe with fifo := xs }, out := v.out ++ [.fifoRead Config.pControl], fg := rest }) := by
  have hhead := State.ctAt_fifoHead (v := { v with fg := rest }) hu hon hx
  have hpop := State.ctAt_fifoPop (v := { v with fg := rest }) hu hon hx
  refine .ctMicro hfg ?_
  rw [micro, Machine.ctReadByte]
  simp only [State.ctAt_ct, State.ctAt_cfg]
  cases hb : v.ct.buf with
  | none => exact congrArg _ hpop
  | cache =>
    have hin : ¬ u.cfg.sizeofDataStage ≤ v.ct.off + k := by
      rw [hb] at hcap
      exact Nat.not_le.mpr hcap
    simp only [hin, if_false, hhead, hpop]
    rfl
  | host c cap =>
    simp only [act, hhead, hpop]
    rfl

/-- The first `n` bytes of the FIFO, stored one after another. -/
theorem RunsTo.ctReadBytes {n k : Nat} (hu : u.CtRunning) (hon : v.pipe.on = true) (hn : n ≤ v.pipe.fifo.length)
    (hcap : v.ct.off + k + n ≤ v.ct.buf.capacity u.cfg)
    (hfg : v.fg = (List.range' k n).map Micro.ctReadByte ++ rest) :
    RunsTo n (u.ctAt v) ((u.store v.ct.buf (v.ct.off + k) (v.pipe.fifo.take n)).ctAt { v with
      pipe := { v.pipe with fifo := v.pipe.fifo.drop n }
      out := v.out ++ List.replicate n (.fifoRead Config.pControl), fg := rest }) := by
  induction n generalizing u v k with
  | zero =>
    rw [List.take_zero, State.store_nil, List.drop_zero, List.replicate_zero, List.append_nil]
    cases v
    cases hfg
    exact .refl _
  | succ n ih =>
    obtain ⟨x, xs, hx⟩ := List.exists_cons_of_length_pos (Nat.zero_lt_of_lt hn)
    rw [hx, List.length_cons] at hn
    have hbyte := RunsTo.ctReadByte hu hon hx (by omega) hfg
    have hcap' : v.ct.off + (k + 1) + n ≤ v.ct.buf.capacity (u.store v.ct.buf (v.ct.off + k) [x]).cfg := by
      rw [State.store_eq, State.setHbuf_cfg, State.setCache_cfg]
      omega
    have hrest := ih (hu.store v.ct.buf (v.ct.off + k) [x]) (v := { v with
      pipe := { v.pipe with fifo := xs }, out := v.out ++ [.fifoRead Config.pControl]
      fg := (List.range' (k + 1) n).map Micro.ctReadByte ++ rest }) hon (Nat.le_of_succ_le_succ hn) hcap' rfl
    have h := (hbyte.trans hrest).mono (Nat.add_comm 1 n).le
    rw [hx, List.take_succ_cons, State.store_cons, List.drop_succ_cons, List.replicate_succ]
    simpa [Nat.add_assoc] using h

/-- A received packet is taken: what was asked for is stored, the rest dropped by the ack (rule R215). -/
theorem RunsTo.ctInTake (hu : u.CtRunning) (hon : v.pipe.on = true) (hcount : v.pipe.byteCount = v.pipe.fifo.length)
    (hcap : v.ct.off + v.ct.rem ≤ v.ct.buf.capacity u.cfg) (hfg : v.fg = .ctInTake :: rest) :
    let got := v.pipe.fifo.take v.ct.rem
    RunsTo (got.length + 4) (u.ctAt v) ((u.store v.ct.buf v.ct.off got).ctAt { v with
      pipe := { v.pipe with inReady := false, fifo := [] }
      out := v.out ++ List.replicate got.length (.fifoRead Config.pControl) ++ [.ackIn Config.pControl]
      ct := { v.ct with off := v.ct.off + got.length, rem := v.ct.rem - got.length }
      fg := .ctInNext v.pipe.byteCount :: rest }) := by
  intro got
  have hlen : got.length = min v.ct.rem v.pipe.fifo.length := List.length_take
  have htake : got = v.pipe.fifo.take got.length := by rw [hlen, ← List.take_eq_take_min]
  let taken : List Act := [.ctMoveOff got.length, .ctMoveRem got.length, .hal (.ackIn Config.pControl)]
  let next : List Micro := actSteps taken ++ .ctInNext v.pipe.byteCount :: rest
  let reading : CtView := { v with fg := (List.range' 0 got.length).map Micro.ctReadByte ++ next }
  have hpush : RunsTo 1 (u.ctAt v) (u.ctAt reading) := by
    refine .ctMicro hfg ?_
    simp only [micro, Machine.ctInTake, State.ctAt_halPipe, State.ctAt_ct, hcount, Nat.min_comm v.pipe.fifo.length,
      ← hlen, thenDo, State.ctAt_push, List.range_eq_range', List.append_assoc]
    simp only [reading, next, taken, hcount]
    rfl
  have hroom : v.ct.off + 0 + got.length ≤ v.ct.off + v.ct.rem := by omega
  have hread := RunsTo.ctReadBytes (v := reading) hu hon (hlen ▸ Nat.min_le_right _ _) (hroom.trans hcap) rfl
  rw [← htake] at hread
  have h := (hpush.trans hread).trans (.ctActs (l := taken) (hu.store _ _ _).alloc hon rfl rfl)
  exact h.mono (by simp only [taken, List.length_cons, List.length_nil]; omega)

/-- After a packet that ends the stage comes the status stage (rule R216, rule R217). -/
theorem RunsTo.ctInNext {n : Nat} (hend : n < u.ident.ctrlMps ∨ u.sr.incompleteRead = true ∨ v.ct.rem = 0)
    (hfg : v.fg = .ctInNext n :: rest) : RunsTo 2 (u.ctAt v) (u.ctAt { v with fg := Machine.ctStatusOut ++ rest }) := by
  by_cases hshort : n < u.ident.ctrlMps
  · exact RunsTo.mono (.ctMicro hfg (if_pos hshort)) (Nat.le_succ 1)
  by_cases hinc : u.sr.incompleteRead = true
  · exact RunsTo.mono (.ctMicro hfg ((if_neg hshort).trans (if_pos hinc))) (Nat.le_succ 1)
  have hrem : v.ct.rem = 0 := by simpa [hshort, hinc] using hend
  have hagain : micro (.ctInNext n) (u.ctAt { v with fg := rest }) =
      .ran (u.ctAt { v with fg := .ctInLoop :: rest }) := by
    simp only [micro, Machine.ctInNext, State.ctAt_ident, State.ctAt_sr, State.ctAt_ct, hshort, hinc, hrem,
      Nat.lt_irrefl, decide_false, Bool.false_and, Bool.false_eq_true, if_false]
    rfl
  have hdone : micro .ctInLoop (u.ctAt { v with fg := rest }) =
      .ran (u.ctAt { v with fg := Machine.ctStatusOut ++ rest }) := by
    simp only [micro, State.ctAt_ct, hrem, Nat.lt_irrefl, if_false]
    rfl
  exact (RunsTo.ctMicro hfg hagain).trans (.ctMicro rfl hdone)

end

/-! ### What TRANSFER_CONTROL sends (rule R117, rule R118) -/

theorem le16_wireByte (w : SetupWord) (k : Nat) :
    le16 (wireByte w k) (wireByte w (k + 1)) = w.extractLsb' (8 * k) 16 := by
  refine BitVec.eq_of_getLsbD_eq fun i hi => ?_
  by_cases h : i < 8
  · simp [le16, wireByte, h, hi]
  · have hplace : 8 * (k + 1) + (i - 8) = 8 * k + i := by omega
    have hhigh : i - 8 < 8 := by omega
    simp [le16, wireByte, h, hi, hplace, hhigh]

/-- A request assembled from `ARG_SETUP` goes on the wire as it stands there. -/
theorem wire_assembleSetup (w : SetupWord) (incomplete : Bool) : (assembleSetup w incomplete).wire = w := by
  simp only [Setup.wire, assembleSetup, le16_wireByte w 2, le16_wireByte w 4, le16_wireByte w 6, setupWire]
  simp only [wireByte]
  rw [BitVec.extractLsb'_append_extractLsb'_eq_extractLsb' (show 8 * 6 = 8 * 4 + 16 from rfl),
    BitVec.extractLsb'_append_extractLsb'_eq_extractLsb' (show 8 * 4 = 8 * 2 + 16 from rfl),
    BitVec.extractLsb'_append_extractLsb'_eq_extractLsb' (show 8 * 2 = 8 * 1 + 8 from rfl),
    BitVec.extractLsb'_append_extractLsb'_eq_extractLsb' (show 8 * 1 = 8 * 0 + 8 from rfl)]
  exact BitVec.extractLsb'_eq_self

theorem Setup.actions_request (s : State) : s.request.actions = setupActions s := by
  simp only [Setup.actions, setupActions, Setup.byte, State.request, wire_assembleSetup, wireByte]
  rfl

/-! ### TRANSFER_CONTROL as a run -/

theorem exec_transferControl {s : State} {b : BitVec 8} (hb : b = 0#8 ∨ b = 1#8) (hfg : s.fg = []) :
    exec (.transferControl b) s =
      run burst (s.setFg (ctProg s.request (bufferOperand b s.args) ++ [.act .resStatus])) := by
  simp only [exec, execTransferControl, if_pos hb, startFg, if_pos hfg]
  rfl

/-- Settles O33: the first micro-step of the transfer refuses. -/
theorem controlTooLongRefused : Obligations.ControlTooLongRefused := by
  rintro s b hb ⟨hfg, hin, -⟩ hlong
  rw [exec_transferControl hb hfg, ctProg_append]
  exact run_refused 16777215 _ (.ctCheck s.request (bufferOperand b s.args)) _ _ (State.calm_nil hin) rfl (if_pos hlong)

theorem bufferOperand_eq_cache {b : BitVec 8} {a : Args} : bufferOperand b a = .cache ↔ b = 0#8 := by
  unfold bufferOperand
  split <;> simp [*]

/-- What storing bytes makes of the memories depends on the memories only. -/
theorem State.store_memory {u u' : State} (b : CtBuf) (off : Nat) (l : List Byte) (hc : u.cache = u'.cache)
    (hh : u.hbuf = u'.hbuf) :
    (u.store b off l).cache = (u'.store b off l).cache ∧ (u.store b off l).hbuf = (u'.store b off l).hbuf := by
  cases b <;> simp [State.store, hc, hh]

/-! ### A data stage of one IN packet -/

/-- What a control transfer that ends with `Good` has changed: the memories as its data stage left them, the registers its
entry, the start of frame and the exit wrote, and what is the view's. -/
theorem State.ctClosed_eq (s : State) (cache hbuf : List Host.Cell) (c : CtRegs) (v : CtView) :
    ((((s.ctOpened.setCache cache).setHbuf hbuf).ctClosed c).ctAt v) = { s with
      sr := s.request, ct := v.ct, flags := { s.flags with evtSof := true }
      en := { s.en with sofieSaveFg := s.en.sofie }, cnt := { s.cnt with tmo := v.tmo }
      res := { s.res with status := Status.good }, jobs := countJobs s.jobs, cache := cache, hbuf := hbuf
      cacheLen := if s.request.dirIn = true ∧ c.buf = .cache then c.off else s.cacheLen
      pipes := ((s.ctFrozen false).ctFrozen true).pipes
      hal := { s.hal with sof := false, pipes := tableSet HalPipe.disabled s.hal.pipes Config.pControl v.pipe }
      trace := (hals v.out).reverse ++ s.trace, inputs := atWait v.events, fg := v.fg, st := v.st } := by
  simp only [State.ctAt, State.ctClosed, State.ctOpened, State.ctEntered, State.framed, State.ctFrozen, State.setHbuf,
    State.setCache, State.pipe]
  rfl

theorem State.ctFrozen_twice_pipe (s : State) (p : Nat) :
    ((s.ctFrozen false).ctFrozen true).pipe p = if p = 0 then { s.pipe 0 with frozen := true } else s.pipe p := by
  simp only [State.ctFrozen_pipe, Config.pControl]
  split <;> simp [*]

/-- The whole run of a transfer whose data stage is one IN packet that ends it. -/
theorem RunsTo.ctReadOnePacket {s : State} {b : BitVec 8} {bytes : List Byte} (hready : ControlReady s)
    (hdir : s.request.dirIn = true) (hpos : 0 < s.request.wLength.toNat)
    (hcap : s.request.wLength.toNat ≤ (bufferOperand b s.args).capacity s.cfg) (hfifo : bytes.length ≤ s.cfg.cap 0)
    (hend : bytes.length < s.ident.ctrlMps ∨ s.request.incompleteRead = true ∨ s.request.wLength.toNat ≤ bytes.length)
    (hin : s.inputs = atWait (frame ++ [Event.setupAck 0, .inPacket 0 bytes, .outReady 0])) :
    let got := bytes.take s.request.wLength.toNat
    ∃ h : HalPipe, RunsTo (got.length + 67)
      (s.setFg (ctProg s.request (bufferOperand b s.args) ++ [.act .resStatus]))
      (((s.ctOpened.store (bufferOperand b s.args) 0 got).ctClosed
        ⟨.statusOut, s.request.wLength.toNat - got.length, got.length, bufferOperand b s.args⟩).ctAt {
        pipe := h
        out := setupActions s ++
          [HalAction.ackSetup 0, .setToken 0 .receive, .unfreezePipe 0, .sendIn 0, .freezePipe 0] ++
          List.replicate got.length (HalAction.fifoRead 0) ++ [HalAction.ackIn 0] ++ statusOutActions
        ct := ⟨.idle, 0, 0, .none⟩, st := Status.good, tmo := 0, fg := [], events := [] }) := by
  intro got
  have hu := hready.ctOpened
  obtain ⟨h, hclear, hopen⟩ := RunsTo.ctOpen (b := b) hready hcap hin
  have hstage := hopen.trans (.ctStage hu hclear.on rfl)
  simp only [show s.ctOpened.sr.dirIn = true from hdir, if_true] at hstage
  have harrived := hstage.trans (.ctInPacket hu { hclear with } rfl hpos hfifo rfl rfl)
  have htaken := harrived.trans (.ctInTake hu hclear.on rfl ((Nat.zero_add _).le.trans hcap) rfl)
  simp only [Nat.zero_add] at htaken
  have hstored := hu.store (bufferOperand b s.args) 0 got
  have hall : s.request.wLength.toNat ≤ bytes.length → s.request.wLength.toNat - got.length = 0 :=
    fun hle => Nat.sub_eq_zero_of_le (List.length_take_of_le hle).ge
  have hended := htaken.trans (.ctInNext (by
    rw [State.store_eq]
    exact hend.imp_right (Or.imp_right hall)) rfl)
  have hstatus := hended.trans (.ctStatusOut hstored { hclear with inReady := rfl } rfl rfl)
  have hexit := hstatus.trans (.ctExit hstored hclear.on rfl rfl)
  have hout : setupActions s ++
      [HalAction.ackSetup 0, .setToken 0 .receive, .unfreezePipe 0, .sendIn 0, .freezePipe 0] ++
      List.replicate got.length (HalAction.fifoRead 0) ++ [HalAction.ackIn 0] ++ statusOutActions =
    s.request.actions ++ [HalAction.ackSetup 0] ++ [HalAction.setToken 0 .receive] ++
      [HalAction.unfreezePipe 0, .sendIn 0, .freezePipe 0] ++ List.replicate got.length (HalAction.fifoRead 0) ++
      [HalAction.ackIn 0] ++ [HalAction.setToken 0 .send, .unfreezePipe 0, .sendOut 0, .ackOut 0] ++
      [HalAction.freezePipe 0] := by
    simp [Setup.actions_request, statusOutActions]
  rw [hout]
  have hsteps : 29 + 4 + 8 + (got.length + 4) + 2 + 9 + 11 ≤ got.length + 67 := by omega
  exact ⟨_, hexit.mono hsteps⟩

/-- Settles O27: the run, phase by phase, of a transfer whose data stage is one IN packet. -/
theorem controlReadOnePacket : Obligations.ControlReadOnePacket := by
  intro s b bytes hb hready hcache hhbuf hdir hpos hcap hfifo hend hin got
  obtain ⟨hfg, -⟩ := id hready
  have hlong : got.length ≤ 65536 := (List.length_take_le _ _).trans s.request.wLength.isLt.le
  obtain ⟨h, hrun⟩ := RunsTo.ctReadOnePacket hready hdir hpos hcap hfifo hend hin
  have hexec := hrun.run_eq (n := burst) ((Nat.add_le_add_right hlong 67).trans (by decide)) rfl
  obtain ⟨hc, hh⟩ := State.store_memory (u := s.ctOpened) (u' := s) (bufferOperand b s.args) 0 got rfl rfl
  rw [State.store_eq, State.ctClosed_eq] at hexec
  have hlen : (if s.request.dirIn = true ∧ bufferOperand b s.args = .cache then got.length else s.cacheLen) =
      if b = 0#8 then got.length else s.cacheLen := by
    simp only [bufferOperand_eq_cache, show s.request.dirIn = true from hdir, true_and]
  refine ⟨_, (exec_transferControl hb hfg).trans hexec, ?_, ?_, ?_, ?_⟩
  · exact .of_store hcache hhbuf hlong hc hh
  · exact State.ctFrozen_twice_pipe s
  · rw [Issued]
  · rw [← hlen, hfg]
    rfl

/-! ### The OUT data stage (rule R220) -/

/-- The byte of a buffer operand at an offset. -/
def State.loadByte (b : CtBuf) (off : Nat) (s : State) : Byte :=
  match b with
  | .none => unlisted
  | .cache => s.cacheByte off
  | .host c _ => s.hostByte c off

section
variable {u : State} {v : CtView} {rest : List Micro}

/-- One byte is given to the FIFO (rule R220). -/
theorem RunsTo.ctWriteByte {k : Nat} (hu : u.CtRunning) (hon : v.pipe.on = true)
    (hcap : v.ct.off + k < v.ct.buf.capacity u.cfg) (hfg : v.fg = .ctWriteByte k :: rest) :
    ∃ fifo, RunsTo 1 (u.ctAt v) (u.ctAt { v with
      pipe := { v.pipe with fifo := fifo }
      out := v.out ++ [.fifoWrite Config.pControl (u.loadByte v.ct.buf (v.ct.off + k))], fg := rest }) := by
  obtain ⟨fifo, hwrite⟩ := State.ctAt_fifoWrite (v := { v with fg := rest }) hu.alloc hon
    (u.loadByte v.ct.buf (v.ct.off + k))
  refine ⟨fifo, .ctMicro hfg ?_⟩
  rw [← hwrite, micro, Machine.ctWriteByte]
  simp only [State.ctAt_ct, State.ctAt_cfg]
  cases hb : v.ct.buf with
  | none =>
    rw [hb] at hcap
    exact absurd hcap (Nat.not_lt_zero _)
  | cache =>
    have hin : ¬ u.cfg.sizeofDataStage ≤ v.ct.off + k := by
      rw [hb] at hcap
      exact Nat.not_le.mpr hcap
    simp only [hin, if_false]
    rfl
  | host c cap => rfl

/-- These bytes of the buffer operand, given to the FIFO one after another. -/
theorem RunsTo.ctWriteBytes {ks : List Nat} (hu : u.CtRunning) (hon : v.pipe.on = true)
    (hcap : ∀ k ∈ ks, v.ct.off + k < v.ct.buf.capacity u.cfg) (hfg : v.fg = ks.map Micro.ctWriteByte ++ rest) :
    ∃ fifo, RunsTo ks.length (u.ctAt v) (u.ctAt { v with
      pipe := { v.pipe with fifo := fifo }
      out := v.out ++ ks.map fun k => HalAction.fifoWrite Config.pControl (u.loadByte v.ct.buf (v.ct.off + k))
      fg := rest }) := by
  induction ks generalizing v with
  | nil =>
    refine ⟨v.pipe.fifo, ?_⟩
    rw [List.map_nil, List.append_nil]
    cases v
    cases hfg
    exact .refl _
  | cons k ks ih =>
    obtain ⟨hk, hks⟩ := List.forall_mem_cons.mp hcap
    obtain ⟨f, hbyte⟩ := RunsTo.ctWriteByte hu hon hk hfg
    obtain ⟨g, hrest⟩ := ih (v := { v with
      pipe := { v.pipe with fifo := f }
      out := v.out ++ [.fifoWrite Config.pControl (u.loadByte v.ct.buf (v.ct.off + k))]
      fg := ks.map Micro.ctWriteByte ++ rest }) hon hks rfl
    refine ⟨g, ?_⟩
    have h := (hbyte.trans hrest).mono (Nat.add_comm 1 ks.length).le
    simpa using h

/-- One OUT packet that the device accepts. -/
theorem RunsTo.ctOutPacket {es : List Event} {n : Nat} (hu : u.CtRunning) (hc : v.pipe.Clear) (hpos : 0 < v.ct.rem)
    (hn : n = min v.ct.rem u.ident.ctrlMps) (hcap : v.ct.off + v.ct.rem ≤ v.ct.buf.capacity u.cfg)
    (hfg : v.fg = .ctOutLoop :: rest) (hes : v.events = .outReady Config.pControl :: es) :
    RunsTo (n + 10) (u.ctAt v) (u.ctAt { v with
      pipe := { v.pipe with frozen := false, fifo := [], sent := false, outReady := false }
      out := v.out ++ ((List.range n).map fun k =>
          HalAction.fifoWrite Config.pControl (u.loadByte v.ct.buf (v.ct.off + k))) ++
        [HalAction.unfreezePipe Config.pControl, .sendOut Config.pControl, .ackOut Config.pControl]
      ct := { v.ct with phase := .dataOut, off := v.ct.off + n, rem := v.ct.rem - n }
      st := Status.good, tmo := 0, fg := .ctOutLoop :: rest, events := es }) := by
  have hloop : RunsTo 1 (u.ctAt v) (u.ctAt { v with fg := Machine.ctOutPacket n ++ rest }) :=
    .ctMicro hfg (by simp only [micro, State.ctAt_ct, State.ctAt_ident, hpos, if_true, ← hn]; rfl)
  let sending : List Act := [.hal (.unfreezePipe Config.pControl), .hal (.sendOut Config.pControl), .zeroTmo]
  let taken : List Act := [.hal (.ackOut Config.pControl), .ctMoveOff n, .ctMoveRem n]
  let writing : CtView := { v with
    ct := { v.ct with phase := .dataOut }
    fg := (List.range n).map Micro.ctWriteByte ++
      (actSteps sending ++ .ctPoll .dataOut :: (actSteps taken ++ .ctOutLoop :: rest)) }
  have hphase : RunsTo 2 (u.ctAt v) (u.ctAt writing) :=
    hloop.trans (.ctActs (l := [.ctPhase .dataOut]) (rest := writing.fg) hu.alloc hc.on
      (by simp [Machine.ctOutPacket, actSteps, writing, sending, taken]) rfl)
  have hroom : ∀ k ∈ List.range n, v.ct.off + k < v.ct.buf.capacity u.cfg := by
    intro k hk
    have hkn := List.mem_range.mp hk
    omega
  obtain ⟨fifo, hwrites⟩ := RunsTo.ctWriteBytes (ks := List.range n) (v := writing) hu hc.on hroom rfl
  have h := (hphase.trans hwrites).trans (.ctExchange (w := .dataOut) (l := sending) (l' := taken)
    (rest := .ctOutLoop :: rest) hu hc.on rfl hes rfl rfl { hc with } rfl rfl rfl)
  have hsteps : 2 + (List.range n).length + (3 + 2 + 3) ≤ n + 10 := by
    rw [List.length_range]
    omega
  simpa [CtView.after, HalPipe.respond, HalPipe.answered, HalPipe.bankFree, writing, sending, taken] using h.mono hsteps

end

/-! ### The bytes a list of HAL actions gives the FIFO -/

theorem fifoBytes_hals_append (p : Nat) (l l' : List HalAction) :
    fifoBytes p (hals (l ++ l')) = fifoBytes p (hals l) ++ fifoBytes p (hals l') := by
  simp [fifoBytes, hals]

theorem fifoBytes_hals_fifoWrite (p : Nat) (ks : List Nat) (f : Nat → Byte) :
    fifoBytes p (hals (ks.map fun k => HalAction.fifoWrite p (f k))) = ks.map f := by
  simp [fifoBytes, hals]

theorem range_append_map {α : Type} (f : Nat → α) (n m : Nat) :
    (List.range n).map f ++ (List.range m).map (fun k => f (n + k)) = (List.range (n + m)).map f := by
  rw [List.range_add, List.map_append, List.map_map]
  rfl

/-- The OUT data stage: as many packets as the bytes fill, each accepted by the device. -/
theorem RunsTo.ctOutPackets {u : State} {v : CtView} {rest : List Micro} {es : List Event} {m : Nat} (hu : u.CtRunning)
    (hc : v.pipe.Clear) (hcap : v.ct.off + v.ct.rem ≤ v.ct.buf.capacity u.cfg)
    (hle : v.ct.rem ≤ m * u.ident.ctrlMps) (hlt : m * u.ident.ctrlMps < v.ct.rem + u.ident.ctrlMps)
    (hfg : v.fg = .ctOutLoop :: rest) (hes : v.events = List.replicate m (.outReady Config.pControl) ++ es) :
    ∃ w : CtView, RunsTo (11 * v.ct.rem + 1) (u.ctAt v) (u.ctAt w) ∧ w.pipe.Clear ∧
      w.fg = Machine.ctStatusIn ++ rest ∧ w.events = es ∧
      fifoBytes Config.pControl (hals w.out) = fifoBytes Config.pControl (hals v.out) ++
        (List.range v.ct.rem).map fun k => u.loadByte v.ct.buf (v.ct.off + k) := by
  induction m generalizing v with
  | zero =>
    have hrem : v.ct.rem = 0 := by omega
    have hdone : micro .ctOutLoop (u.ctAt { v with fg := rest }) =
        .ran (u.ctAt { v with fg := Machine.ctStatusIn ++ rest }) := by
      simp only [micro, State.ctAt_ct, hrem, Nat.lt_irrefl, if_false]
      rfl
    exact ⟨_, .mono (.ctMicro hfg hdone) (Nat.le_add_left 1 _), hc, rfl, hes, by simp [hrem]⟩
  | succ m ih =>
    rw [Nat.succ_mul] at hle hlt
    let n := min v.ct.rem u.ident.ctrlMps
    have hpacket := RunsTo.ctOutPacket (n := n) hu hc (by omega) rfl hcap hfg hes
    let sent : CtView := { v with
      pipe := { v.pipe with frozen := false, fifo := [], sent := false, outReady := false }
      out := v.out ++ ((List.range n).map fun k =>
          HalAction.fifoWrite Config.pControl (u.loadByte v.ct.buf (v.ct.off + k))) ++
        [HalAction.unfreezePipe Config.pControl, .sendOut Config.pControl, .ackOut Config.pControl]
      ct := { v.ct with phase := .dataOut, off := v.ct.off + n, rem := v.ct.rem - n }
      st := Status.good, tmo := 0, fg := .ctOutLoop :: rest
      events := List.replicate m (.outReady Config.pControl) ++ es }
    have hoff : sent.ct.off = v.ct.off + n := rfl
    have hrem : sent.ct.rem = v.ct.rem - n := rfl
    have hbuf : sent.ct.buf = v.ct.buf := rfl
    obtain ⟨w, hrun, hclear, hwfg, hwes, hbytes⟩ := ih (v := sent) { hc with outReady := rfl }
      (by rw [hbuf]; omega) (by omega) (by omega) rfl rfl
    refine ⟨w, (hpacket.trans hrun).mono (by omega), hclear, hwfg, hwes, ?_⟩
    have hn : v.ct.rem = n + (v.ct.rem - n) := by omega
    have hnone : fifoBytes Config.pControl (hals [HalAction.unfreezePipe Config.pControl, .sendOut Config.pControl,
      .ackOut Config.pControl]) = [] := rfl
    rw [hbytes, hoff, hrem, hbuf, fifoBytes_hals_append, fifoBytes_hals_append, fifoBytes_hals_fifoWrite, hnone, hn,
      ← range_append_map]
    simp [Nat.add_assoc]

theorem fifoBytes_setupActions (s : State) :
    fifoBytes 0 (hals (setupActions s)) = (List.range 8).map fun k => s.args.setup.extractLsb' (8 * k) 8 := rfl

theorem State.bufferBytes_eq (s : State) (b : BitVec 8) (n : Nat) :
    s.bufferBytes b n = (List.range n).map fun k => s.loadByte (bufferOperand b s.args) k := by
  unfold State.bufferBytes bufferOperand
  split <;> rfl

theorem pos_of_legalMps {n : Nat} (h : legalMps n = true) : 0 < n := by
  simp only [legalMps, Bool.or_eq_true, beq_iff_eq] at h
  omega

/-- So many packets of size `m` hold `n` bytes, and one fewer do not. -/
theorem ceilDiv_bounds (n : Nat) {m : Nat} (hm : 0 < m) : n ≤ (n + m - 1) / m * m ∧ (n + m - 1) / m * m < n + m := by
  have hdiv := Nat.div_add_mod (n + m - 1) m
  have hmod := Nat.mod_lt (n + m - 1) hm
  rw [Nat.mul_comm] at hdiv
  omega

/-- The whole run of a transfer with an OUT data stage whose packets the device accepts. -/
theorem RunsTo.ctWrite {s : State} {b : BitVec 8} (hready : ControlReady s) (hmps : 0 < s.ident.ctrlMps)
    (hdir : s.request.dirIn = false) (hcap : s.request.wLength.toNat ≤ (bufferOperand b s.args).capacity s.cfg)
    (hin : s.inputs = atWait (frame ++ [Event.setupAck 0] ++
      List.replicate ((s.request.wLength.toNat + s.ident.ctrlMps - 1) / s.ident.ctrlMps) (Event.outReady 0) ++
      [Event.inPacket 0 []])) :
    ∃ (c : CtRegs) (w : CtView),
      RunsTo (11 * s.request.wLength.toNat + 54)
        (s.setFg (ctProg s.request (bufferOperand b s.args) ++ [.act .resStatus])) ((s.ctOpened.ctClosed c).ctAt w) ∧
      w.fg = [] ∧
      fifoBytes 0 (hals w.out) = (List.range 8).map (fun k => s.args.setup.extractLsb' (8 * k) 8) ++
        s.bufferBytes b s.request.wLength.toNat := by
  have hu := hready.ctOpened
  obtain ⟨hle, hlt⟩ := ceilDiv_bounds s.request.wLength.toNat hmps
  obtain ⟨h, hclear, hopen⟩ := RunsTo.ctOpen (b := b) hready hcap hin
  have hstage := hopen.trans (.ctStage hu hclear.on rfl)
  simp only [show s.ctOpened.sr.dirIn = false from hdir] at hstage
  obtain ⟨w, hpackets, hwclear, hwfg, hwes, hbytes⟩ := RunsTo.ctOutPackets hu (v := {
    pipe := { h with token := .send }
    out := s.request.actions ++ [HalAction.ackSetup Config.pControl] ++ [HalAction.setToken Config.pControl .send]
    ct := ⟨.setup, s.request.wLength.toNat, 0, bufferOperand b s.args⟩, st := Status.good, tmo := 0
    fg := [.ctOutLoop, .ctExit, .act .resStatus], events := _ }) { hclear with } ((Nat.zero_add _).le.trans hcap)
    hle hlt rfl rfl
  have hstatus := (hstage.trans hpackets).trans (.ctStatusIn hu hwclear hwfg hwes)
  have hexit := hstatus.trans (.ctExit hu hwclear.on rfl rfl)
  have hsteps : 29 + 4 + (11 * s.request.wLength.toNat + 1) + 9 + 11 ≤ 11 * s.request.wLength.toNat + 54 := by omega
  refine ⟨_, _, hexit.mono hsteps, rfl, ?_⟩
  have hload : ∀ k, s.ctOpened.loadByte (bufferOperand b s.args) k = s.loadByte (bufferOperand b s.args) k := by
    intro k
    cases bufferOperand b s.args <;> rfl
  simp only [Nat.zero_add, hload] at hbytes
  have hnone : fifoBytes 0 (hals [HalAction.ackSetup 0]) = [] ∧ fifoBytes 0 (hals [HalAction.setToken 0 .send]) = [] ∧
      fifoBytes 0 (hals [HalAction.setToken 0 .receive, .unfreezePipe 0, .sendIn 0, .ackIn 0]) = [] ∧
      fifoBytes 0 (hals [HalAction.freezePipe 0]) = [] := ⟨rfl, rfl, rfl, rfl⟩
  simp only [fifoBytes_hals_append, Config.pControl, hnone, List.append_nil, Setup.actions_request,
    fifoBytes_setupActions] at hbytes ⊢
  rw [hbytes, State.bufferBytes_eq]

/-- Settles O29: the run, phase by phase, of a transfer whose packets the device accepts. -/
theorem controlWriteSendsBuffer : Obligations.ControlWriteSendsBuffer := by
  intro s b hb hready hlegal hmps hdir hcap hin
  obtain ⟨hfg, -⟩ := id hready
  obtain ⟨c, w, hrun, hwfg, hbytes⟩ := RunsTo.ctWrite hready (pos_of_legalMps hmps) hdir hcap hin
  have hfuel : 11 * s.request.wLength.toNat + 54 ≤ burst := by
    have := s.request.wLength.isLt
    simp only [burst]
    omega
  have hexec := hrun.run_eq hfuel hwfg
  have hout : s.ctOpened.sr.dirIn = false := hdir
  have hlen : (s.ctOpened.ctClosed c).cacheLen = s.cacheLen := if_neg (by simp [hout])
  have hissued : Issued s ((s.ctOpened.ctClosed c).ctAt w) (hals w.out) := by
    rw [Issued]
    rfl
  exact ⟨_, hals w.out, (exec_transferControl hb hfg).trans hexec, hwfg, rfl, hissued, hbytes,
    ⟨fun _ => rfl, fun _ _ => rfl⟩, hlen, rfl, rfl⟩

end Sys2Proof.Machine
end

section
/-! PROOFS. The family `30_encoding.md`: the fields of a command word (rule R111) and of the SETUP bytes (rule R118),
the decoder against the encoder, the words that name no operation (rule R127), and the request builders (rule R130). -/

namespace Sys2Proof

/-! ### The fields of a command word (rule R111) -/

@[simp] theorem fieldOp_append (op a b z : BitVec 8) : fieldOp (op ++ a ++ b ++ z) = op :=
  (BitVec.extractLsb'_append_eq_of_le (by decide)).trans <|
    (BitVec.extractLsb'_append_eq_of_le (by decide)).trans BitVec.extractLsb'_append_eq_left

@[simp] theorem fieldA_append (op a b z : BitVec 8) : fieldA (op ++ a ++ b ++ z) = a :=
  (BitVec.extractLsb'_append_eq_of_le (by decide)).trans <|
    (BitVec.extractLsb'_append_eq_of_le (by decide)).trans BitVec.extractLsb'_append_eq_right

@[simp] theorem fieldB_append (op a b z : BitVec 8) : fieldB (op ++ a ++ b ++ z) = b :=
  (BitVec.extractLsb'_append_eq_of_le (by decide)).trans BitVec.extractLsb'_append_eq_right

@[simp] theorem fieldZ_append (op a b z : BitVec 8) : fieldZ (op ++ a ++ b ++ z) = z :=
  BitVec.extractLsb'_append_eq_right

/-- The four fields are all of the word. -/
theorem append_fields (w : Word) : fieldOp w ++ fieldA w ++ fieldB w ++ fieldZ w = w := by
  simp only [fieldOp, fieldA, fieldB, fieldZ]
  rw [BitVec.extractLsb'_append_extractLsb'_eq_extractLsb' (show 24 = 16 + 8 from rfl),
    BitVec.extractLsb'_append_extractLsb'_eq_extractLsb' (show 16 = 8 + 8 from rfl),
    BitVec.extractLsb'_append_extractLsb'_eq_extractLsb' (show 8 = 0 + 8 from rfl)]
  exact BitVec.extractLsb'_eq_self

@[simp] theorem fieldOp_cmdWord (op a b : BitVec 8) : fieldOp (cmdWord op a b) = op := fieldOp_append op a b 0#8

@[simp] theorem fieldA_cmdWord (op a b : BitVec 8) : fieldA (cmdWord op a b) = a := fieldA_append op a b 0#8

@[simp] theorem fieldB_cmdWord (op a b : BitVec 8) : fieldB (cmdWord op a b) = b := fieldB_append op a b 0#8

theorem cmdWord_fields {w : Word} (hz : fieldZ w = 0#8) : cmdWord (fieldOp w) (fieldA w) (fieldB w) = w := by
  conv_rhs => rw [← append_fields w, hz]
  rfl

/-! ### The fields of the SETUP bytes (rule R118) -/

/-- A 16-bit field is its two bytes, the low one first on the wire. -/
theorem wireHalf_eq_append (w : SetupWord) (k : Nat) : wireHalf w k = wireByte w (k + 1) ++ wireByte w k :=
  (BitVec.extractLsb'_append_extractLsb'_eq_extractLsb' (Nat.mul_succ 8 k)).symm

section
variable (rt rq : Byte) (value index length : Half)

@[simp] theorem wireHalf_zero_setupWire : wireHalf (setupWire rt rq value index length) 0 = rq ++ rt := by
  have hassoc : setupWire rt rq value index length = (length ++ index ++ value) ++ (rq ++ rt) := BitVec.append_assoc
  rw [hassoc]
  exact BitVec.extractLsb'_append_eq_right

@[simp] theorem wireHalf_two_setupWire : wireHalf (setupWire rt rq value index length) 2 = value :=
  (BitVec.extractLsb'_append_eq_of_le (by decide)).trans <|
    (BitVec.extractLsb'_append_eq_of_le (by decide)).trans BitVec.extractLsb'_append_eq_right

@[simp] theorem wireHalf_four_setupWire : wireHalf (setupWire rt rq value index length) 4 = index :=
  (BitVec.extractLsb'_append_eq_of_le (by decide)).trans <|
    (BitVec.extractLsb'_append_eq_of_le (by decide)).trans <|
      (BitVec.extractLsb'_append_eq_of_le (by decide)).trans BitVec.extractLsb'_append_eq_right

@[simp] theorem wireHalf_six_setupWire : wireHalf (setupWire rt rq value index length) 6 = length :=
  (BitVec.extractLsb'_append_eq_of_le (by decide)).trans <|
    (BitVec.extractLsb'_append_eq_of_le (by decide)).trans <|
      (BitVec.extractLsb'_append_eq_of_le (by decide)).trans BitVec.extractLsb'_append_eq_left

end

@[simp] theorem high_append (hi lo : Byte) : (hi ++ lo : Half).extractLsb' 8 8 = hi :=
  BitVec.extractLsb'_append_eq_left

@[simp] theorem low_append (hi lo : Byte) : (hi ++ lo : Half).extractLsb' 0 8 = lo :=
  BitVec.extractLsb'_append_eq_right

theorem wireByte_eq_low (w : SetupWord) (k : Nat) : wireByte w k = (wireHalf w k).extractLsb' 0 8 := by
  rw [wireHalf_eq_append, low_append]

theorem wireByte_eq_high (w : SetupWord) (k : Nat) : wireByte w (k + 1) = (wireHalf w k).extractLsb' 8 8 := by
  rw [wireHalf_eq_append, high_append]

section
variable (rt rq : Byte) (value index length : Half)

@[simp] theorem wireByte_zero_setupWire : wireByte (setupWire rt rq value index length) 0 = rt := by
  simp [wireByte_eq_low]

@[simp] theorem wireByte_one_setupWire : wireByte (setupWire rt rq value index length) 1 = rq := by
  simp [wireByte_eq_high _ 0]

@[simp] theorem wireByte_two_setupWire :
    wireByte (setupWire rt rq value index length) 2 = value.extractLsb' 0 8 := by
  simp [wireByte_eq_low]

@[simp] theorem wireByte_three_setupWire :
    wireByte (setupWire rt rq value index length) 3 = value.extractLsb' 8 8 := by
  simp [wireByte_eq_high _ 2]

@[simp] theorem wireByte_four_setupWire :
    wireByte (setupWire rt rq value index length) 4 = index.extractLsb' 0 8 := by
  simp [wireByte_eq_low]

@[simp] theorem wireByte_six_setupWire :
    wireByte (setupWire rt rq value index length) 6 = length.extractLsb' 0 8 := by
  simp [wireByte_eq_low]

@[simp] theorem wireByte_seven_setupWire :
    wireByte (setupWire rt rq value index length) 7 = length.extractLsb' 8 8 := by
  simp [wireByte_eq_high _ 6]

end

/-- Equality of a 16-bit field, byte by byte. -/
theorem append_eq_half_iff {hi lo : Byte} {x : Half} :
    hi ++ lo = x ↔ hi = x.extractLsb' 8 8 ∧ lo = x.extractLsb' 0 8 := by
  constructor
  · rintro rfl
    exact ⟨BitVec.extractLsb'_append_eq_left.symm, BitVec.extractLsb'_append_eq_right.symm⟩
  · rintro ⟨rfl, rfl⟩
    exact BitVec.extractLsb'_append_extractLsb'

theorem assembleSetup_eq (w : SetupWord) (incomplete : Bool) :
    Machine.assembleSetup w incomplete =
      ⟨wireByte w 0, wireByte w 1, wireHalf w 2, wireHalf w 4, wireHalf w 6, incomplete⟩ := by
  simp only [Machine.assembleSetup, Machine.le16_wireByte w 2, Machine.le16_wireByte w 4, Machine.le16_wireByte w 6,
    wireHalf]

theorem setupWire_fields (w : SetupWord) :
    setupWire (wireByte w 0) (wireByte w 1) (wireHalf w 2) (wireHalf w 4) (wireHalf w 6) = w := by
  have hw := Machine.wire_assembleSetup w false
  rwa [assembleSetup_eq] at hw

/-- The four 16-bit fields are all of the eight bytes. -/
theorem setupWire_eq_iff {rt rq : Byte} {value index length : Half} {w : SetupWord} :
    setupWire rt rq value index length = w ↔
      wireHalf w 0 = rq ++ rt ∧ wireHalf w 2 = value ∧ wireHalf w 4 = index ∧ wireHalf w 6 = length := by
  constructor
  · rintro rfl
    simp
  · rintro ⟨hreq, rfl, rfl, rfl⟩
    have hrt : wireByte w 0 = rt := by rw [wireByte_eq_low, hreq, low_append]
    have hrq : wireByte w 1 = rq := by rw [wireByte_eq_high w 0, hreq, high_append]
    rw [← hrt, ← hrq]
    exact setupWire_fields w

/-! ### The encoding of an operation decodes to it -/

/-- Settles O1, row by row of the opcode table. -/
theorem decodeOfEncode : Obligations.DecodeOfEncode := by
  intro i hi
  cases i with
  | transferControl b =>
    have hb : b = 0#8 ∨ b = 1#8 := by simpa [WellFormed] using hi
    simp [encode, decode, decodeCmd, withSelect, hb, Laws.fieldZ_cmdWord]
  | getDescriptorDevice | getDescriptorConfiguration | hostSetAddress | setConfiguration | setInterface
  | setFeatureRemoteWakeup | clearFeatureEndpointHalt | getConfiguration =>
    simp [encode, decode, decodeSetup, append_eq_half_iff, Laws.wireByte_five_setupWire]
  | _ => simp [encode, decode, decodeCmd, bare, withA, Laws.fieldZ_cmdWord]

/-! ### What a command word decodes to, by the kind of its `op` (rule R115, rule R116) -/

section
variable {w : Word}

theorem decodeCmd_of_reserved (hz : fieldZ w ≠ 0#8) : decodeCmd w = .error .reservedZ := if_pos hz

theorem decodeCmd_of_bare (hz : fieldZ w = 0#8) (hop : fieldOp w ∈ bareOps) :
    ∃ i, decodeCmd w = bare w i ∧ encode i = .cmd (cmdWord (fieldOp w) 0#8 0#8) := by
  simp only [bareOps, List.mem_cons, List.not_mem_nil, or_false] at hop
  rcases hop with h | h | h | h | h | h | h | h | h | h | h | h | h | h | h | h <;>
  · rw [decodeCmd, hz, h]
    exact ⟨_, rfl, rfl⟩

theorem decodeCmd_of_a (hz : fieldZ w = 0#8) (hop : fieldOp w ∈ aOps) :
    ∃ i : BitVec 8 → Instr, decodeCmd w = withA w i ∧ ∀ a, encode (i a) = .cmd (cmdWord (fieldOp w) a 0#8) := by
  simp only [aOps, List.mem_cons, List.not_mem_nil, or_false] at hop
  rcases hop with h | h | h | h | h | h | h | h <;>
  · rw [decodeCmd, hz, h]
    exact ⟨_, rfl, fun _ => rfl⟩

theorem decodeCmd_of_select (hz : fieldZ w = 0#8) (hop : fieldOp w = 0x01#8) : decodeCmd w = withSelect w := by
  rw [decodeCmd, hz, hop]
  rfl

theorem decodeCmd_of_interfacePipe (hz : fieldZ w = 0#8) (hop : fieldOp w = 0x18#8) :
    decodeCmd w = .ok (.interfacePipe (fieldA w) (fieldB w)) := by
  rw [decodeCmd, hz, hop]
  rfl

theorem decodeCmd_of_unknown (hz : fieldZ w = 0#8) (hbare : fieldOp w ∉ bareOps) (ha : fieldOp w ∉ aOps)
    (hselect : fieldOp w ≠ 0x01#8) (hpipe : fieldOp w ≠ 0x18#8) : decodeCmd w = .error .unknownOp := by
  simp only [bareOps, aOps, List.mem_cons, List.not_mem_nil, or_false, not_or] at hbare ha
  simp [decodeCmd, hz, hbare, ha, hselect, hpipe]

/-- A word that names no operation is refused under one of the reasons of rule R127 (1). -/
theorem decodeCmd_of_illegal (h : illegalFields (fieldOp w) (fieldA w) (fieldB w) (fieldZ w)) :
    ∃ e, decodeCmd w = .error e := by
  by_cases hz : fieldZ w = 0#8
  case neg => exact ⟨_, decodeCmd_of_reserved hz⟩
  rcases h with ⟨hbare, ha, hselect, hpipe⟩ | hz' | ⟨hop, hused⟩ | ⟨hop, hused⟩ | ⟨hop, hused⟩
  · exact ⟨_, decodeCmd_of_unknown hz hbare ha hselect hpipe⟩
  · exact absurd hz hz'
  · obtain ⟨i, hdec, -⟩ := decodeCmd_of_bare hz hop
    exact ⟨_, hdec.trans (if_neg (not_and_or.mpr hused))⟩
  · obtain ⟨i, hdec, -⟩ := decodeCmd_of_a hz hop
    exact ⟨_, hdec.trans (if_neg hused)⟩
  · rw [decodeCmd_of_select hz hop, withSelect]
    by_cases ha : fieldA w = 0#8
    · have hb : ¬ (fieldB w = 0#8 ∨ fieldB w = 1#8) := not_or.mpr (hused.resolve_left (not_not.mpr ha))
      exact ⟨_, (if_pos ha).trans (if_neg hb)⟩
    · exact ⟨_, if_neg ha⟩

/-- Every other word names the operation whose encoding it is. -/
theorem decodeCmd_of_legal (h : ¬ illegalFields (fieldOp w) (fieldA w) (fieldB w) (fieldZ w)) :
    ∃ i, decodeCmd w = .ok i ∧ encode i = .cmd w := by
  simp only [illegalFields, not_or, not_and, not_not] at h
  obtain ⟨hknown, hz, hbare, ha, hselect⟩ := h
  have hword := cmdWord_fields hz
  by_cases hop : fieldOp w ∈ bareOps
  · obtain ⟨i, hdec, henc⟩ := decodeCmd_of_bare hz hop
    obtain ⟨ha0, hb0⟩ := hbare hop
    rw [ha0, hb0] at hword
    exact ⟨i, hdec.trans (if_pos ⟨ha0, hb0⟩), henc.trans (congrArg _ hword)⟩
  by_cases hop' : fieldOp w ∈ aOps
  · obtain ⟨i, hdec, henc⟩ := decodeCmd_of_a hz hop'
    rw [ha hop'] at hword
    exact ⟨_, hdec.trans (if_pos (ha hop')), (henc _).trans (congrArg _ hword)⟩
  by_cases hone : fieldOp w = 0x01#8
  · obtain ⟨ha0, hb⟩ := hselect hone
    have hb : fieldB w = 0#8 ∨ fieldB w = 1#8 := or_iff_not_imp_left.mpr hb
    rw [hone, ha0] at hword
    exact ⟨_, (decodeCmd_of_select hz hone).trans ((if_pos ha0).trans (if_pos hb)), congrArg _ hword⟩
  · have hpipe := hknown hop hop' hone
    rw [hpipe] at hword
    exact ⟨_, decodeCmd_of_interfacePipe hz hpipe, congrArg _ hword⟩

theorem encode_of_decodeCmd {i : Instr} (h : decodeCmd w = .ok i) : encode i = .cmd w := by
  have hlegal : ¬ illegalFields (fieldOp w) (fieldA w) (fieldB w) (fieldZ w) := fun hill => by
    obtain ⟨e, he⟩ := decodeCmd_of_illegal hill
    exact nomatch h.symm.trans he
  obtain ⟨j, hj, henc⟩ := decodeCmd_of_legal hlegal
  rwa [Except.ok.inj (h.symm.trans hj)]

end

/-- Settles O4: the two sides of rule R127 (1), taken to `step`. -/
theorem illegalWordsRefused : Obligations.IllegalWordsRefused := by
  intro s op a b z hbus
  refine ⟨fun hill => ?_, fun hlegal => ?_⟩
  · obtain ⟨e, he⟩ := decodeCmd_of_illegal (w := op ++ a ++ b ++ z) (by simpa using hill)
    refine ⟨e, ?_⟩
    simp only [Machine.step, hbus, decode, he]
  · obtain ⟨i, hi, -⟩ := decodeCmd_of_legal (w := op ++ a ++ b ++ z) (by simpa using hlegal)
    exact ⟨i, hi⟩

/-! ### What decodes is an encoding -/

/-- Each test of the request decoder fixes every byte that is not an operand of its builder. -/
theorem encode_of_decodeSetup {w : SetupWord} {incomplete : Bool} {i : Instr} (h : decodeSetup w incomplete = .ok i) :
    encode i = .setup w incomplete := by
  rw [decodeSetup] at h
  split_ifs at h with hdevice hside hconfig haddress hset hinterface hfeature hhalt hget <;> cases h
  · simp [encode, setupWire_eq_iff, hdevice]
  · simp [encode, setupWire_eq_iff, hside, hconfig, wireHalf_eq_append w 2]
  · simp [encode, setupWire_eq_iff, hside, haddress, wireHalf_eq_append w 2]
  · simp [encode, setupWire_eq_iff, hside, hset, wireHalf_eq_append w 2]
  · simp [encode, setupWire_eq_iff, hside, hinterface, wireHalf_eq_append w 2, wireHalf_eq_append w 4]
  · simp [encode, setupWire_eq_iff, hside, hfeature]
  · simp [encode, setupWire_eq_iff, hside, hhalt, wireHalf_eq_append w 4]
  · simp [encode, setupWire_eq_iff, hside, hget]

/-- Settles O2: command words by the legal words of rule R127 (1), request bytes by the tests of their decoder. -/
theorem encodeOfDecode : Obligations.EncodeOfDecode := fun w _ h =>
  ⟨wellFormed_of_decode h,
    match w with
    | .cmd _ => encode_of_decodeCmd h
    | .setup _ _ => encode_of_decodeSetup h⟩

/-- Settles O3, word by word. -/
theorem wordsDecode : Obligations.WordsDecode := ⟨rfl, rfl, rfl, rfl, rfl, rfl, rfl, rfl⟩

namespace Machine

/-! ### The request builders (rule R131 to rule R138) -/

/-- Settles O7: `assembleSetup` by its fields, and the fields of `setupWire`. -/
theorem setupAssembly : Obligations.SetupAssembly := by
  refine ⟨fun x inc => ?_, fun r => ?_⟩
  · rw [assembleSetup_eq]
    exact ⟨rfl, rfl, wireHalf_eq_append x 2, wireHalf_eq_append x 4, wireHalf_eq_append x 6, rfl⟩
  · simp [assembleSetup_eq, Setup.wire]

/-- The eight bytes of a request, byte 0 first (rule R118). -/
theorem Setup.wire_bytes (r : Setup) :
    (List.range 8).map (wireByte r.wire) =
      [r.bmRequestType, r.bRequest, r.wValue.extractLsb' 0 8, r.wValue.extractLsb' 8 8, r.wIndex.extractLsb' 0 8,
        r.wIndex.extractLsb' 8 8, r.wLength.extractLsb' 0 8, r.wLength.extractLsb' 8 8] := by
  simp [List.range_succ, Setup.wire, Laws.wireByte_five_setupWire]

theorem setWidth_byte (v : Byte) : v.setWidth 16 = (0#8 ++ v : Half) := BitVec.setWidth_eq_append (by decide)

/-- The value field of `get_descriptor_configuration` is the descriptor type over the index (rule R132). -/
theorem reqGetDescriptorConfiguration_eq (idx : Byte) (len : Half) :
    reqGetDescriptorConfiguration idx len = ⟨0x80#8, 0x06#8, 0x02#8 ++ idx, 0#16, len, false⟩ := by
  have hvalue : 0x0200#16 ||| idx.setWidth 16 = (0x02#8 ++ idx : Half) := by
    rw [setWidth_byte, show 0x0200#16 = (0x02#8 ++ 0#8 : Half) from rfl, BitVec.or_append, BitVec.or_zero,
      BitVec.zero_or]
  rw [reqGetDescriptorConfiguration, hvalue]

/-- `loadSetup` writes the eight bytes and the side bit, and nothing else. -/
theorem loadSetup_loads (r : Setup) (s : State) {bytes : List Byte}
    (hbytes : (List.range 8).map (wireByte r.wire) = bytes) :
    ∃ x : BitVec 64, (List.range 8).map (fun k => x.extractLsb' (8 * k) 8) = bytes ∧
      (.next (loadSetup r s) : Host.Outcome State Fault Refusal) =
        .next { s with args := { s.args with setup := x, incomplete := r.incompleteRead } } :=
  ⟨r.wire, hbytes, rfl⟩

/-- Settles O6: each builder loads its request, whose bytes are the fields of rule R118. -/
theorem buildersLoadSetup : Obligations.BuildersLoadSetup := by
  intro s v w len inc
  refine ⟨loadSetup_loads (reqGetDescriptorDevice len inc) s ?_,
    loadSetup_loads (reqGetDescriptorConfiguration v len) s ?_, loadSetup_loads (reqSetAddress v) s ?_,
    loadSetup_loads (reqSetConfiguration v) s ?_, loadSetup_loads (reqSetInterface v w) s ?_,
    loadSetup_loads reqSetFeatureRemoteWakeup s ?_, loadSetup_loads (reqClearFeatureEndpointHalt v) s ?_,
    loadSetup_loads reqGetConfiguration s ?_⟩
  all_goals
    rw [Setup.wire_bytes]
    simp [reqGetDescriptorDevice, reqGetDescriptorConfiguration_eq, reqSetAddress, reqSetConfiguration, reqSetInterface,
      reqSetFeatureRemoteWakeup, reqClearFeatureEndpointHalt, reqGetConfiguration, setWidth_byte]

end Machine
end Sys2Proof
end

section
/-! PROOFS. The family `40_port_fsm.md`: TICK in each state of the port (rule R150 to rule R171), and the two commands
that latch a request for it (rule R166, rule R167). -/

namespace Sys2Proof.Machine

/-! ### The latches (rule R166, rule R167) -/

theorem execSuspend_of_ready {s : State} (h : s.ds = .ready) :
    exec .suspend s = .next { s with flags := { s.flags with suspReq := true } } := by
  simp only [exec, execSuspend, if_pos h]
  rfl

theorem execSuspend_of_not_ready {s : State} (h : s.ds ≠ .ready) : exec .suspend s = .next s := by
  simp only [exec, execSuspend, if_neg h]
  rfl

theorem execResume_of_suspended {s : State} (h : s.ds = .suspended ∨ s.ds = .waitResume) :
    exec .resume s = .next { s with flags := { s.flags with resumeReq := true } } := by
  simp only [exec, execResume, if_pos h]
  rfl

theorem execResume_of_not_suspended {s : State} (h : ¬ (s.ds = .suspended ∨ s.ds = .waitResume)) :
    exec .resume s = .next s := by
  simp only [exec, execResume, if_neg h]
  rfl

/-- Settles O11: each command by whether `DS` permits it. -/
theorem suspendResumeLatch : Obligations.SuspendResumeLatch := fun _ =>
  ⟨execSuspend_of_ready, execSuspend_of_not_ready, execResume_of_suspended, execResume_of_not_suspended⟩

/-! ### TICK as a run (rule R150) -/

theorem exec_tick {s : State} (hfg : s.fg = []) : exec .tick s = run burst (s.setFg (tickProg s.cfg s.ds)) :=
  if_pos hfg

/-- A TICK whose micro-steps come to an end with fuel left. -/
theorem RunsTo.exec_tick {k : Nat} {d : DevState} {s t : State} (h : RunsTo k (s.setFg (tickProg s.cfg d)) t)
    (hfg : s.fg = []) (hds : s.ds = d) (hk : k ≤ burst) (ht : t.fg = []) : exec .tick s = .next t := by
  subst hds
  exact (Machine.exec_tick hfg).trans (h.run_eq hk ht)

@[simp] theorem State.setFg_calm (s : State) (f : List Micro) : (s.setFg f).calm = s.calm := rfl

/-- What a test and the straight-line micro-steps it guards leave. -/
def State.guarded (b : Bool) (l : List Act) (s : State) : State := if b then acts l s else s

@[simp] theorem State.guarded_inputs (b : Bool) (l : List Act) (s : State) : (s.guarded b l).inputs = s.inputs := by
  unfold State.guarded
  split
  · exact acts_inputs l s
  · rfl

@[simp] theorem acts_calm (l : List Act) (s : State) : (acts l s).calm = s.calm := by simp only [State.calm, acts_inputs]

@[simp] theorem State.guarded_calm (b : Bool) (l : List Act) (s : State) : (s.guarded b l).calm = s.calm := by
  simp only [State.calm, State.guarded_inputs]

/-- Straight-line micro-steps, then the rest. -/
theorem RunsTo.straight {s : State} {rest : List Micro} (l : List Act) (hc : s.calm = true) :
    RunsTo l.length (s.setFg (actSteps l ++ rest)) ((acts l s).setFg rest) := by
  have h : RunsTo l.length (s.setFg (actSteps l ++ rest)) (acts l (s.setFg rest)) := .of_acts hc rfl
  rwa [acts_setFg] at h

/-- A test that guards straight-line micro-steps. -/
theorem RunsTo.onlyIf {s : State} {m : Micro} {rest : List Micro} (b : Bool) (l : List Act) (hc : s.calm = true)
    (hm : micro m (s.setFg rest) = Machine.onlyIf b (actSteps l) (s.setFg rest)) :
    RunsTo (l.length + 1) (s.setFg (m :: rest)) ((s.guarded b l).setFg rest) := by
  cases b
  · exact .mono (.of_micro hc rfl hm hc) (Nat.le_add_left 1 _)
  · have htest : RunsTo 1 (s.setFg (m :: rest)) (s.setFg (actSteps l ++ rest)) := .of_micro hc rfl hm hc
    exact (htest.trans (.straight l hc)).mono (Nat.add_comm 1 _).le

/-! ### The states that do not block -/

/-- `SOFGEN` is put to 0, with its action if it was 1 (rule R152). -/
def State.sofOff (s : State) : State :=
  ((s.setEn { s.en with sofgen := false }).setHal { s.hal with sof := s.hal.sof && !s.en.sofgen }).setTrace
    ((hals (if s.en.sofgen then [.stopSof] else [])).reverse ++ s.trace)

/-- `WAKEIE` is put to 0, with its action if it was 1 (rule R152). -/
def State.wakeOff (s : State) : State :=
  (s.setEn { s.en with wakeie := false }).setTrace
    ((hals (if s.en.wakeie then [.disarmWakeupInt] else [])).reverse ++ s.trace)

/-- `DISC_IE` is put to 1, with its action if it was 0 (rule R152). -/
def State.discOn (s : State) : State :=
  (s.setEn { s.en with discIe := true }).setTrace
    ((hals (if s.en.discIe then [] else [.enableDiscInt])).reverse ++ s.trace)

section
variable (s : State)

@[simp] theorem State.sofOff_inputs : s.sofOff.inputs = s.inputs := rfl
@[simp] theorem State.wakeOff_inputs : s.wakeOff.inputs = s.inputs := rfl
@[simp] theorem State.discOn_inputs : s.discOn.inputs = s.inputs := rfl

theorem State.guarded_sofgen : s.guarded s.en.sofgen [.hal .stopSof, .setSofgen false] = s.sofOff := by
  unfold State.sofOff
  cases h : s.en.sofgen
  · have hen : { s.en with sofgen := false } = s.en := by rw [← h]
    simp only [hen, Bool.not_false, Bool.and_true]
    rfl
  · rfl

theorem State.guarded_wakeie : s.guarded s.en.wakeie [.hal .disarmWakeupInt, .setWakeie false] = s.wakeOff := by
  unfold State.wakeOff
  cases h : s.en.wakeie
  · have hen : { s.en with wakeie := false } = s.en := by rw [← h]
    rw [hen]
    rfl
  · rfl

theorem State.guarded_discOff : s.guarded (!s.en.discIe) [.hal .enableDiscInt, .setDiscIe true] = s.discOn := by
  unfold State.discOn
  cases h : s.en.discIe
  · rfl
  · have hen : { s.en with discIe := true } = s.en := by rw [← h]
    rw [hen]
    rfl

theorem State.guarded_vbusHigh :
    s.guarded s.hal.vbusHigh [.setDs .attached] = s.setDs (if s.hal.vbusHigh then .attached else s.ds) := by
  cases s.hal.vbusHigh <;> rfl

end

section
variable {s : State} (hin : s.inputs = [])
include hin

/-- The three tests that put off or on what rule R152 names. -/
theorem RunsTo.quiesce (rest : List Micro) :
    RunsTo 9 (s.setFg ([.ifSofgen, .ifWakeie, .ifDiscOff] ++ rest)) (s.sofOff.wakeOff.discOn.setFg rest) := by
  have hsof := RunsTo.onlyIf (m := .ifSofgen) (rest := [.ifWakeie, .ifDiscOff] ++ rest) _ _ (State.calm_nil hin) rfl
  rw [State.setFg_en, State.guarded_sofgen] at hsof
  have hwake := RunsTo.onlyIf (s := s.sofOff) (m := .ifWakeie) (rest := .ifDiscOff :: rest) _ _
    (State.calm_nil (by simp [hin])) rfl
  rw [State.setFg_en, State.guarded_wakeie] at hwake
  have hdisc := RunsTo.onlyIf (s := s.sofOff.wakeOff) (m := .ifDiscOff) (rest := rest) _ _
    (State.calm_nil (by simp [hin])) rfl
  rw [State.setFg_en, State.guarded_discOff] at hdisc
  exact (hsof.trans hwake).trans hdisc

/-- TICK in `Unattached` as a run: the context is cleared, what is on is put off, VBUS is put on and looked at (rule
R152). -/
theorem RunsTo.tickUnattached :
    RunsTo 14 (s.setFg (tickProg s.cfg .unattached)) (((acts [.hal .enableVbus, .setVbusen true]
      s.clearContext.sofOff.wakeOff.discOn).setDs (if s.hal.vbusHigh then .attached else s.ds)).setFg []) := by
  have hclear := RunsTo.straight (rest := [.ifSofgen, .ifWakeie, .ifDiscOff, halStep .enableVbus,
    .act (.setVbusen true), .ifVbusHigh]) [.critClear] (State.calm_nil hin)
  have hoff := hclear.trans (.quiesce (s := s.clearContext) hin _)
  have hon := hoff.trans (.straight (s := s.clearContext.sofOff.wakeOff.discOn) [.hal .enableVbus, .setVbusen true]
    (State.calm_nil (by simp [hin])))
  have hend := hon.trans (.onlyIf (rest := []) _ [.setDs .attached] (State.calm_nil (by simp [hin])) rfl)
  have hhal : (acts [.hal .enableVbus, .setVbusen true] s.clearContext.sofOff.wakeOff.discOn).hal.vbusHigh =
      s.hal.vbusHigh := by
    simp [acts, act, State.discOn, State.wakeOff, State.sofOff, State.doHal, halEffect]
  have hds : (acts [.hal .enableVbus, .setVbusen true] s.clearContext.sofOff.wakeOff.discOn).ds = s.ds := by
    simp [acts, act, State.discOn, State.wakeOff, State.sofOff]
  rw [State.setFg_hal, State.guarded_vbusHigh, hhal, hds] at hend
  exact hend.mono (by decide)

end

/-- Settles O16: the run, test by test. -/
theorem tickUnattached : Obligations.TickUnattached := by
  intro s hfg hin hds
  have hrun := RunsTo.tickUnattached hin
  rw [hrun.exec_tick hfg hds (by decide) rfl, hds, ← hfg]
  simp [State.sofOff, State.wakeOff, State.discOn, State.clearContext, acts, act, State.doHal, halEffect, State.emit,
    State.setFlags, State.setCnt, State.setNsi, State.setPipes, State.setIdent, State.setCacheLen, State.setEn,
    State.setHal, State.setTrace, State.setDs, State.setFg, hals]
  exact ⟨fun _ _ => rfl, rfl⟩

/-- A tested state change under the guard of `Advance` (rule R151). -/
theorem State.guarded_advance (b : Bool) (d : DevState) (s : State) :
    s.guarded b [.advance d] = s.setDs (if b = true ∧ s.flags.emerg = false then d else s.ds) := by
  cases b
  · rfl
  · cases h : s.flags.emerg <;> simp [State.guarded, acts, act, State.advance, h]

theorem RunsTo.tickPowered {s : State} (hin : s.inputs = []) :
    let n := if s.flags.evtSof then s.cnt.sofcnt + 1 else s.cnt.sofcnt
    RunsTo 5 (s.setFg (tickProg s.cfg .powered)) ((((s.setFlags { s.flags with evtSof := false }).setCnt
      { s.cnt with sofcnt := n }).setDs
        (if n = s.cfg.poweredCount ∧ s.flags.emerg = false then .default else s.ds)).setFg []) := by
  intro n
  have hcounted : s.guarded s.flags.evtSof [.clearEvtSof, .incSofcnt] =
      (s.setFlags { s.flags with evtSof := false }).setCnt { s.cnt with sofcnt := n } := by
    cases h : s.flags.evtSof
    · have hflags : { s.flags with evtSof := false } = s.flags := by rw [← h]
      simp only [hflags, n, h]
      rfl
    · simp only [n, h]
      rfl
  have hcount := RunsTo.onlyIf (m := .poweredCount) (rest := [.poweredCheck]) _ _ (State.calm_nil hin) rfl
  rw [State.setFg_flags, hcounted] at hcount
  have hcheck := hcount.trans (.onlyIf (rest := []) _ [.advance .default] (State.calm_nil (by simp [hin])) rfl)
  simp only [State.guarded_advance, decide_eq_true_iff] at hcheck
  exact hcheck

theorem RunsTo.tickReady {s : State} (hin : s.inputs = []) :
    RunsTo 3 (s.setFg (tickProg s.cfg .ready)) (((s.setFlags { s.flags with suspReq := false }).setDs
      (if s.flags.suspReq = true ∧ s.flags.emerg = false then .suspended else s.ds)).setFg []) := by
  have htaken : s.guarded s.flags.suspReq [.critSuspTaken, .advance .suspended] =
      (s.setFlags { s.flags with suspReq := false }).setDs
        (if s.flags.suspReq = true ∧ s.flags.emerg = false then .suspended else s.ds) := by
    cases h : s.flags.suspReq
    · have hflags : { s.flags with suspReq := false } = s.flags := by rw [← h]
      rw [hflags]
      rfl
    · cases he : s.flags.emerg <;> simp [State.guarded, acts, act, State.advance, he]
  have hcheck := RunsTo.onlyIf (m := .readyCheck) (rest := []) _ _ (State.calm_nil hin) rfl
  rw [State.setFg_flags, htaken] at hcheck
  exact hcheck

theorem RunsTo.tickError {s : State} (hin : s.inputs = []) :
    RunsTo 1 (s.setFg (tickProg s.cfg .error)) ((s.setDs
      (if s.cfg.errorRestart = true ∧ s.flags.emerg = false then .unattached else s.ds)).setFg []) := by
  rw [← State.guarded_advance]
  cases h : s.cfg.errorRestart
  · simp only [tickProg, h]
    exact (RunsTo.refl _).mono (Nat.zero_le 1)
  · simp only [tickProg, h]
    exact RunsTo.straight (rest := []) [.advance .unattached] (State.calm_nil hin)

/-- A TICK whose one test fails changes nothing. -/
theorem RunsTo.onlyIf_false {s : State} {m : Micro} {ms : List Micro} (hin : s.inputs = [])
    (hm : micro m (s.setFg []) = Machine.onlyIf false ms (s.setFg [])) : RunsTo 1 (s.setFg [m]) (s.setFg []) :=
  .of_micro (State.calm_nil hin) rfl hm (State.calm_nil hin)

/-- Settles O17, state by state. -/
theorem tickWithoutWaiting : Obligations.TickWithoutWaiting := by
  intro s hfg hin
  have hself : s.setFg [] = s := by rw [← hfg]; rfl
  refine ⟨fun hds hconn hrearm => ?_, fun hds => ?_, fun hds => ?_, fun hds => ?_, fun hds => ?_,
    fun hds hwake hresume => ?_, fun hds => ?_⟩
  · have hrun := RunsTo.onlyIf_false (m := .attachedStart) (ms := attachedProg s.cfg) hin (by simp [micro, hconn, hrearm])
    rw [hrun.exec_tick hfg hds (by decide) rfl, hself]
  · rw [(RunsTo.tickPowered hin).exec_tick hfg hds (by decide) rfl, hds, ← hfg]
    rfl
  · rw [(RunsTo.tickReady hin).exec_tick hfg hds (by decide) rfl, hds, ← hfg]
    rfl
  · rw [(RunsTo.tickError hin).exec_tick hfg hds (by decide) rfl, hds, ← hfg]
    rfl
  · rw [(RunsTo.refl _).exec_tick (d := .unsupported) hfg hds (Nat.zero_le _) rfl]
    exact congrArg _ hself
  · have hrun := RunsTo.onlyIf_false (m := .waitResumeStart) (ms := resumeProg) hin (by simp [micro, hwake, hresume])
    rw [hrun.exec_tick hfg hds (by decide) rfl, hself]
  · have hrun := RunsTo.straight (rest := []) [.setDs .unattached] (State.calm_nil hin)
    rw [hrun.exec_tick (d := .vbusLow) hfg hds (by decide) rfl, ← hfg]
    rfl

/-! ### Suspend and resume (rule R165, rule R168) -/

/-- A wake-up signal is taken if it is there (rule R165). -/
theorem State.guarded_wakeup (s : State) :
    s.guarded s.hal.wakeup [.hal .ackWakeup] = (s.setHal { s.hal with wakeup := false }).setTrace
      ((hals (if s.hal.wakeup then [.ackWakeup] else [])).reverse ++ s.trace) := by
  cases h : s.hal.wakeup
  · have hhal : { s.hal with wakeup := false } = s.hal := by rw [← h]
    rw [hhal]
    rfl
  · rfl

/-- Settles O18: SOF generation is stopped, a wake-up signal taken, and the wake-up interrupt armed. -/
theorem tickSuspended : Obligations.TickSuspended := by
  intro s hfg hin hds
  have hstop := RunsTo.straight (rest := .ifWakeupAck :: actSteps [.hal .armWakeupInt, .setWakeie true,
    .advance .waitResume]) [.hal .stopSof, .setSofgen false, .critWakeClear] (State.calm_nil hin)
  have hack := hstop.trans (.onlyIf _ [.hal .ackWakeup] (State.calm_nil (by simp [hin])) rfl)
  rw [State.setFg_hal, State.guarded_wakeup] at hack
  have harm := hack.trans (.straight (rest := []) [.hal .armWakeupInt, .setWakeie true, .advance .waitResume]
    (State.calm_nil (by simp [hin])))
  rw [harm.exec_tick hfg hds (by decide) rfl, ← hfg]
  simp [acts, act, State.setSofgen, State.advance, State.doHal, halEffect, State.emit, State.setFlags, State.setEn,
    State.setHal, State.setTrace, State.setDs, State.setFg, hals, hds]

/-- A wait that the next event ends: the poll is pending, the event comes, the poll lets the foreground go on. -/
theorem RunsTo.waited {s t : State} {m : Micro} {e : Event} {es : List Event} {rest : List Micro}
    (hin : s.inputs = atWait (e :: es)) (hm : micro m (s.setFg rest) = .pending (s.setFg (m :: rest)))
    (ho : occur e ((s.setFg (m :: rest)).setInputs (atWait es)) = .next (t.setFg (m :: rest)))
    (hm' : micro m (t.setFg rest) = .ran (t.setFg rest)) (hc : t.calm = true) :
    RunsTo 2 (s.setFg (m :: rest)) (t.setFg rest) :=
  have hevent := RunsTo.of_pending (s := s.setFg (m :: rest)) (State.calm_atWait hin) rfl hm hin ho
  hevent.trans (.of_micro hc rfl hm' hc)

/-- Settles O19: the handshake up to its wait, the signal, and what follows it. -/
theorem tickResumes : Obligations.TickResumes := by
  intro s hfg hin hds hwake hsent hemerg
  have hcalm : s.calm = true := State.calm_atWait hin
  let before : List Act := [.critResumeTaken, .hal .disarmWakeupInt, .setWakeie false, .hal .startSof, .setSofgen true,
    .hal .sendResume]
  let sent := ((acts before s).setHal { (acts before s).hal with resumeSent := true }).setInputs []
  have hstart : RunsTo 1 (s.setFg [.waitResumeStart]) (s.setFg resumeProg) := by
    refine .of_micro hcalm rfl (if_pos ?_) hcalm
    simpa using hwake
  have hsend := hstart.trans (.straight (rest := .pollResume :: actSteps [.hal .ackResumeSent, .advance .ready]) before
    hcalm)
  have hpending (fg : List Micro) : micro .pollResume ((acts before s).setFg fg) =
      .pending ((acts before s).setFg (.pollResume :: fg)) := by
    simp [micro, pollResume, stay, before, acts, act, State.setSofgen, State.doHal, halEffect, hsent, hemerg,
      State.push, State.setFg]
  have hwait := hsend.trans (.waited (t := sent) (by simpa using hin) (hpending _) rfl rfl (State.calm_nil rfl))
  have hend := hwait.trans (.straight (rest := []) [.hal .ackResumeSent, .advance .ready] (State.calm_nil rfl))
  rw [hend.exec_tick hfg hds (by decide) rfl, ← hfg]
  simp [sent, before, acts, act, State.setSofgen, State.advance, State.doHal, halEffect, State.emit, State.setFlags,
    State.setEn, State.setHal, State.setTrace, State.setDs, State.setInputs, State.setFg, hals, hemerg]
  rw [← hsent]

end Sys2Proof.Machine
end

section
/-! PROOFS. The family `40_port_fsm.md`, TICK in `Attached`: the bus reset and the window of start-of-frames (rule R153,
rule R155). -/

namespace Sys2Proof.Machine

/-! ### The bus reset (rule R153) -/

theorem State.job_not_enabled {s : State} {p : Nat} (h : s.anyArmed = false) (hp : 1 ≤ p) :
    (s.job p).enabled = false := by
  obtain ⟨q, rfl⟩ := Nat.exists_eq_add_of_le' hp
  have hjob : s.job (q + 1) = s.jobs.tail.getD q Job.unarmed := by
    cases hj : s.jobs <;> simp [State.job, hj]
  rw [hjob, List.getD_eq_getElem?_getD]
  cases hq : s.jobs.tail[q]? with
  | none => rfl
  | some j => simpa using List.any_eq_false.mp h j (List.mem_of_getElem? hq)

/-- With no job armed ABORT_ALL_PIPES aborts nothing (rule R360). -/
theorem RunsTo.abort {s : State} {rest : List Micro} (hc : s.calm = true) (h : s.anyArmed = false) :
    RunsTo s.cfg.nPipes (s.setFg (abortProg s.cfg ++ rest)) (s.setFg rest) := by
  have hpipes : ∀ l : List Nat, (∀ p ∈ l, 1 ≤ p) →
      RunsTo l.length (s.setFg (l.map Micro.abortPipe ++ rest)) (s.setFg rest) := by
    intro l
    induction l with
    | nil => exact fun _ => .refl _
    | cons p l ih =>
      intro hl
      have hp := State.job_not_enabled h (hl p List.mem_cons_self)
      have hskip : micro (.abortPipe p) (s.setFg (l.map Micro.abortPipe ++ rest)) =
          .ran (s.setFg (l.map Micro.abortPipe ++ rest)) := by
        simp [micro, Machine.onlyIf, hp]
      have hfirst : RunsTo 1 (s.setFg ((p :: l).map Micro.abortPipe ++ rest))
          (s.setFg (l.map Micro.abortPipe ++ rest)) := .of_micro hc rfl hskip hc
      exact (hfirst.trans (ih fun q hq => hl q (List.mem_cons_of_mem _ hq))).mono (Nat.add_comm 1 _).le
  refine (hpipes s.cfg.dataPipes fun p hp => (Config.mem_dataPipes.mp hp).1).mono ?_
  simp [Config.dataPipes]

/-- The bus has been reset: `DEVADDR` and the address every pipe targets are 0 (rule R153). -/
def State.busReset (es : List Event) (s : State) : State :=
  (((s.setIdent { s.ident with devaddr := 0#7 }).setHal { s.hal with resetting := false, address := 0#7 }).setTrace
    ((hals [.assertReset, .setAddress 0#7]).reverse ++ s.trace)).setInputs (atWait es)

theorem State.calm_of_atWait {s : State} {es : List Event} (h : s.inputs = atWait es) : s.calm = true := by
  cases es with
  | nil => exact State.calm_nil h
  | cons e es => exact State.calm_atWait h

/-- `BusReset` with no job armed, which the environment completes (rule R153). -/
theorem RunsTo.busReset {s : State} {who : ResetFor} {rest : List Micro} {es : List Event} (h : s.anyArmed = false)
    (hemerg : s.flags.emerg = false) (hin : s.inputs = atWait (.resetting false :: es)) :
    RunsTo (s.cfg.nPipes + 5) (s.setFg (busResetProg s.cfg who ++ rest)) ((s.busReset es).setFg rest) := by
  have hcalm : s.calm = true := State.calm_atWait hin
  let start : List Act := [.hal .assertReset, .critDevaddr 0#7, .hal (.setAddress 0#7)]
  have habort := RunsTo.abort (rest := actSteps start ++ .pollReset who :: rest) hcalm h
  have hstart := habort.trans (.straight (rest := .pollReset who :: rest) start hcalm)
  have hpending (fg : List Micro) : micro (.pollReset who) ((acts start s).setFg fg) =
      .pending ((acts start s).setFg (.pollReset who :: fg)) := by
    simp [micro, pollReset, stay, start, acts, act, State.doHal, halEffect, hemerg, State.push, State.setFg]
  have hended (fg : List Micro) : occur (.resetting false) (((acts start s).setFg fg).setInputs (atWait es)) =
      .next ((s.busReset es).setFg fg) := by
    simp [occur, State.busReset, start, acts, act, State.doHal, halEffect, State.emit, State.setIdent, State.setHal,
      State.setTrace, State.setInputs, State.setFg, hals]
  have hdone (fg : List Micro) : micro (.pollReset who) ((s.busReset es).setFg fg) = .ran ((s.busReset es).setFg fg) := by
    simp [micro, pollReset, State.busReset]
  have hwait := hstart.trans (.waited (by simpa using hin) (hpending _) (hended _) (hdone _) (State.calm_of_atWait rfl))
  simpa [busResetProg, start] using hwait

/-! ### Starts of frame at a wait -/

/-- With no job armed a start of frame counts for none (rule R421). -/
theorem countJobs_of_not_armed {l : List Job} (h : l.tail.any Job.enabled = false) : countJobs l = l := by
  cases l with
  | nil => rfl
  | cons j rest =>
    have hjob : ∀ k ∈ rest, k.countSof = k := fun k hk => by
      have hk : k.enabled = false := by simpa using List.any_eq_false.mp h k hk
      simp [Job.countSof, hk]
    simp only [countJobs, List.map_congr_left hjob, List.map_id_fun', id_eq]

/-- The state after a start of frame that finds no job armed (rule R421): `n` is what it leaves in `TMO`. -/
def State.sofSeen (n : Nat) (s : State) : State :=
  ((s.setHal { s.hal with sof := false }).setFlags { s.flags with evtSof := true }).setCnt { s.cnt with tmo := n }

theorem evSofBody_of_not_armed {s : State} (h : s.anyArmed = false) : ∃ n, evSofBody s = s.sofSeen n := by
  have hjobs : (if s.en.sofie then countJobs s.jobs else s.jobs) = s.jobs := by
    rw [countJobs_of_not_armed h, ite_self]
  unfold evSofBody
  rw [hjobs]
  split
  · exact ⟨s.cnt.tmo + 1, rfl⟩
  · exact ⟨s.cnt.tmo, rfl⟩

/-- A poll that is pending whatever the HAL holds, and a start of frame. -/
theorem RunsTo.frameAtPoll {s : State} {m : Micro} {es : List Event} {rest : List Micro} (hsof : OnlySof s)
    (hgen : s.en.sofgen = true) (hin : s.inputs = atWait (.sof :: .irq :: es))
    (hm : ∀ (hal : Hal) (l : List Input), micro m (((s.setHal hal).setInputs l).setFg rest) =
      .pending (((s.setHal hal).setInputs l).setFg (m :: rest))) :
    RunsTo 2 (s.setFg (m :: rest)) ((evSofBody (s.setInputs (atWait es))).setFg (m :: rest)) := by
  let raised (l : List Event) : State := (s.setHal { s.hal with sof := true }).setInputs (atWait l)
  have hraise : RunsTo 1 (s.setFg (m :: rest)) ((raised (.irq :: es)).setFg (m :: rest)) := by
    refine .of_pending (State.calm_of_atWait hin) rfl (hm s.hal s.inputs) hin ?_
    simp only [occur, State.setFg, State.setInputs, State.setHal, hgen, Bool.or_true, raised]
    rfl
  have henter : sequencer ((raised es).setFg (m :: rest)) =
      .next ((evSofBody (s.setInputs (atWait es))).setFg (m :: rest)) :=
    sequencer_of_sof (s := (raised es).setFg (m :: rest)) hsof hgen rfl
  exact hraise.trans (.of_pending (State.calm_atWait (e := .irq) (later := atWait es) rfl) rfl (hm _ _) rfl henter)

/-! ### The window of `Attached` (rule R155) -/

/-- Nothing but starts of frame happens to a port whose window is open, and no job is armed. -/
structure State.InWindow (s : State) : Prop where
  onlySof : OnlySof s
  sofgen : s.en.sofgen = true
  emerg : s.flags.emerg = false
  evtSof : s.flags.evtSof = false
  unarmed : s.anyArmed = false

/-- What the window leaves: `n` frames counted. -/
def State.windowed (n tmo : Nat) (sof : Bool) (s : State) : State :=
  ((s.setCnt { s.cnt with sofcnt := n, tmo := tmo }).setHal { s.hal with sof := sof }).setInputs []

@[simp] theorem State.windowed_cfg (n tmo : Nat) (sof : Bool) (s : State) : (s.windowed n tmo sof).cfg = s.cfg := rfl

@[simp] theorem State.windowed_cnt (n tmo : Nat) (sof : Bool) (s : State) :
    (s.windowed n tmo sof).cnt = { s.cnt with sofcnt := n, tmo := tmo } := rfl

theorem State.windowed_again (s : State) (n n' tmo tmo' : Nat) (sof sof' : Bool) (l : List Input) :
    ((s.windowed n tmo sof).setInputs l).windowed n' tmo' sof' = s.windowed n' tmo' sof' := by
  simp only [State.windowed, State.setCnt, State.setHal, State.setInputs]

theorem State.InWindow.windowed {s : State} (h : s.InWindow) (n tmo : Nat) (sof : Bool) (l : List Input) :
    ((s.windowed n tmo sof).setInputs l).InWindow where
  onlySof := by simpa [OnlySof, State.windowed] using h.onlySof
  sofgen := by simpa [State.windowed] using h.sofgen
  emerg := by simpa [State.windowed] using h.emerg
  evtSof := by simpa [State.windowed] using h.evtSof
  unarmed := by simpa [State.windowed] using h.unarmed

/-- One frame of the window. -/
theorem RunsTo.windowFrame {s : State} {es : List Event} {rest : List Micro} (h : s.InWindow)
    (hn : s.cnt.sofcnt ≠ s.cfg.attachWindow) (hin : s.inputs = atWait (.sof :: .irq :: es)) :
    ∃ tmo, RunsTo 3 (s.setFg (.pollWindow :: rest)) ((((s.windowed (s.cnt.sofcnt + 1) tmo false).setInputs
      (atWait es))).setFg (.pollWindow :: rest)) := by
  have hframe := RunsTo.frameAtPoll (rest := rest) (m := .pollWindow) h.onlySof h.sofgen hin fun hal l => by
    simp [micro, pollWindow, stay, hn, h.emerg, h.evtSof, State.push, State.setFg]
  obtain ⟨tmo, hseen⟩ := evSofBody_of_not_armed (s := s.setInputs (atWait es)) h.unarmed
  rw [hseen] at hframe
  obtain ⟨-, hdisc, -, -⟩ := h.onlySof
  have hflags : ∀ f : FlagRegs, f.emerg = false → f.evtSof = false →
      { f with emerg := false, evtSof := false } = f := by
    rintro ⟨⟩ rfl rfl
    rfl
  have hcounted : micro .pollWindow (((s.setInputs (atWait es)).sofSeen tmo).setFg rest) =
      .ran (((s.windowed (s.cnt.sofcnt + 1) tmo false).setInputs (atWait es)).setFg (.pollWindow :: rest)) := by
    simp [micro, pollWindow, again, State.sofSeen, State.windowed, hn, h.emerg, hdisc, act, State.push, State.setFg,
      State.setFlags, State.setCnt, State.setHal, State.setInputs]
    exact hflags _ h.emerg h.evtSof
  exact ⟨tmo, hframe.trans (.of_micro (State.calm_of_atWait rfl) rfl hcounted (State.calm_of_atWait rfl))⟩

/-- The window: as many frames as it still has to count. -/
theorem RunsTo.window {n : Nat} {s : State} {rest : List Micro} (h : s.InWindow)
    (hn : s.cnt.sofcnt + n = s.cfg.attachWindow) (hin : s.inputs = atWait (frames n)) :
    ∃ (tmo : Nat) (sof : Bool), RunsTo (3 * n + 1) (s.setFg (.pollWindow :: rest))
      ((s.windowed s.cfg.attachWindow tmo sof).setFg rest) := by
  induction n generalizing s with
  | zero =>
    have hself : s.windowed s.cfg.attachWindow s.cnt.tmo s.hal.sof = s := by
      rw [← hn, State.windowed]
      exact congrArg (fun l => { s with inputs := l }) hin.symm
    refine ⟨s.cnt.tmo, s.hal.sof, ?_⟩
    rw [hself]
    exact .of_micro (State.calm_nil hin) rfl (if_pos hn) (State.calm_nil hin)
  | succ n ih =>
    obtain ⟨tmo, hframe⟩ := RunsTo.windowFrame (rest := rest) (es := frames n) h (by omega) hin
    obtain ⟨tmo', sof, hrest⟩ := ih (h.windowed (s.cnt.sofcnt + 1) tmo false (atWait (frames n)))
      (by simp only [State.setInputs_cnt, State.setInputs_cfg, State.windowed_cnt, State.windowed_cfg]; omega) rfl
    rw [State.setInputs_cfg, State.windowed_cfg, State.windowed_again] at hrest
    exact ⟨tmo', sof, (hframe.trans hrest).mono (by omega)⟩

/-! ### TICK in `Attached` (rule R155) -/

/-- No emergency: the TICK goes on (rule R151). -/
theorem RunsTo.retIfEmerg {s : State} {rest : List Micro} (hc : s.calm = true) (h : s.flags.emerg = false) :
    RunsTo 1 (s.setFg (.retIfEmerg :: rest)) (s.setFg rest) := by
  refine .of_micro hc rfl ?_ hc
  simp only [micro, State.setFg_flags, h, Bool.false_eq_true, if_false]
  rfl

/-- No disconnect: the TICK goes on (rule R155, rule R157). -/
theorem RunsTo.recheckDisc {s : State} {rest : List Micro} (hc : s.calm = true) (h : s.hal.disc = false) :
    RunsTo 1 (s.setFg (.recheckDisc :: rest)) (s.setFg rest) := by
  refine .of_micro hc rfl ?_ hc
  simp only [micro, State.setFg_hal, h, Bool.false_eq_true, if_false]
  rfl

/-- The straight-line micro-steps of `Attached` up to its bus reset, a connect event having been seen. -/
def attachActs : List Act := [.hal .ackConn, .setRearm false, .hal .disableDiscInt, .setDiscIe false]

/-- Those between the bus reset and the window. -/
def openWindowActs : List Act := [.hal .startSof, .setSofgen true, .zeroSofcnt, .clearEvtSof]

/-- Those after the window, when no disconnect has come. -/
def poweredActs (c : Config) : List Act :=
  [.critPipe0, .hal (.configurePipe Config.pControl .control false 0#4 c.ctrlMpsInit 1 0#8), .zeroSofcnt,
    .advance .powered]

/-- The port when its window opens. -/
def State.windowOpen (es : List Event) (s : State) : State := acts openWindowActs ((acts attachActs s).busReset es)

/-- TICK in `Attached` up to its window (rule R155, rule R153). -/
theorem RunsTo.attachedOpen {s : State} {es : List Event} {rest : List Micro} (hconn : s.hal.conn = true)
    (hemerg : s.flags.emerg = false) (h : s.anyArmed = false) (hin : s.inputs = atWait (.resetting false :: es)) :
    RunsTo (s.cfg.nPipes + 14)
      (s.setFg (.ifConnAck :: actSteps [.setRearm false, .hal .disableDiscInt, .setDiscIe false] ++
        busResetProg s.cfg .attached ++ actSteps openWindowActs ++ rest)) ((s.windowOpen es).setFg rest) := by
  have hc := State.calm_of_atWait hin
  have hack := RunsTo.onlyIf (m := .ifConnAck) (rest := actSteps [.setRearm false, .hal .disableDiscInt,
    .setDiscIe false] ++ (busResetProg s.cfg .attached ++ (actSteps openWindowActs ++ rest))) _ [.hal .ackConn] hc rfl
  rw [State.setFg_hal, hconn] at hack
  have hreset := RunsTo.busReset (s := acts attachActs s) (who := .attached) (es := es)
    (rest := actSteps openWindowActs ++ rest)
    (by simpa [attachActs, acts, act] using h) (by simpa [attachActs, acts, act] using hemerg) (by simpa using hin)
  rw [acts_cfg] at hreset
  have hbefore := (hack.trans (.straight [.setRearm false, .hal .disableDiscInt, .setDiscIe false] hc)).trans hreset
  have hopen := hbefore.trans (.straight openWindowActs (State.calm_of_atWait rfl))
  have hsteps : [Act.hal .ackConn].length + 1 + 3 + (s.cfg.nPipes + 5) + openWindowActs.length ≤ s.cfg.nPipes + 14 := by
    simp [openWindowActs]
    omega
  simpa [State.windowOpen] using hopen.mono hsteps

/-- The port once it is powered. -/
def State.powered (tmo : Nat) (sof : Bool) (s : State) : State :=
  acts (poweredActs s.cfg) (acts [.hal .enableDiscInt, .setDiscIe true]
    ((s.windowOpen (frames s.cfg.attachWindow)).windowed s.cfg.attachWindow tmo sof))

/-- TICK in `Attached` with a connect event, a bus reset that completes and a quiet window (rule R155). -/
theorem RunsTo.tickAttached {s : State} (hconn : s.hal.conn = true) (hemerg : s.flags.emerg = false)
    (hsof : OnlySof s) (h : s.anyArmed = false)
    (hin : s.inputs = atWait (Event.resetting false :: frames s.cfg.attachWindow)) :
    ∃ (tmo : Nat) (sof : Bool), RunsTo (s.cfg.nPipes + 3 * s.cfg.attachWindow + 24)
      (s.setFg (tickProg s.cfg .attached)) ((s.powered tmo sof).setFg []) := by
  have hc := State.calm_of_atWait hin
  let closing : List Micro := actSteps [.hal .enableDiscInt, .setDiscIe true] ++
    .recheckDisc :: .retIfEmerg :: actSteps (poweredActs s.cfg)
  have hstart : RunsTo 1 (s.setFg [.attachedStart]) (s.setFg (attachedProg s.cfg)) := by
    refine .of_micro hc rfl ?_ hc
    simp [micro, Machine.onlyIf, thenDo, State.push, State.setFg, hconn]
  have hopen := RunsTo.attachedOpen (rest := .pollWindow :: closing) hconn hemerg h hin
  have hwin : (s.windowOpen (frames s.cfg.attachWindow)).InWindow := by
    obtain ⟨hvbus, hdisc, hrole, hwake⟩ := hsof
    constructor <;> simp [State.windowOpen, State.busReset, OnlySof, acts, act, openWindowActs, attachActs,
      State.setSofgen, State.doHal, halEffect, hvbus, hdisc, hrole, hwake, hemerg, h]
  have hcfg : (s.windowOpen (frames s.cfg.attachWindow)).cfg = s.cfg := by
    simp [State.windowOpen, State.busReset]
  have hzero : (s.windowOpen (frames s.cfg.attachWindow)).cnt.sofcnt = 0 := by
    simp [State.windowOpen, acts, act, openWindowActs]
  obtain ⟨tmo, sof, hwindow⟩ := RunsTo.window (rest := closing) (n := s.cfg.attachWindow) hwin
    (by rw [hzero, hcfg, Nat.zero_add]) (by simp [State.windowOpen, State.busReset])
  rw [hcfg] at hwindow
  let done := acts [.hal .enableDiscInt, .setDiscIe true]
    ((s.windowOpen (frames s.cfg.attachWindow)).windowed s.cfg.attachWindow tmo sof)
  have hquiet : done.hal.disc = false ∧ done.flags.emerg = false := by
    obtain ⟨-, hdisc, -, -⟩ := hwin.onlySof
    simp [done, acts, act, State.windowed, State.doHal, halEffect, hdisc, hwin.emerg]
  have hdone : done.calm = true := State.calm_nil (by simp [done, State.windowed])
  have hclose := hwindow.trans (.straight [.hal .enableDiscInt, .setDiscIe true] (State.calm_nil rfl))
  have hpass := (hclose.trans (.recheckDisc hdone hquiet.1)).trans (.retIfEmerg hdone hquiet.2)
  have hend := hpass.trans (.straight (rest := []) (poweredActs s.cfg) hdone)
  have hprog : attachedProg s.cfg = .ifConnAck :: actSteps [.setRearm false, .hal .disableDiscInt, .setDiscIe false] ++
      busResetProg s.cfg .attached ++ actSteps openWindowActs ++ .pollWindow :: closing := by
    simp [attachedProg, closing, actSteps, openWindowActs, poweredActs]
  rw [hprog] at hstart
  have hopened := hstart.trans (hopen.trans hend)
  have hsteps : 1 + (s.cfg.nPipes + 14 + (3 * s.cfg.attachWindow + 1 +
      [Act.hal .enableDiscInt, Act.setDiscIe true].length + 1 + 1 + (poweredActs s.cfg).length)) ≤
      s.cfg.nPipes + 3 * s.cfg.attachWindow + 24 := by
    simp [poweredActs]
    omega
  exact ⟨tmo, sof, hopened.mono hsteps⟩

theorem State.setHal_self (s : State) : s.setHal s.hal = s := rfl

/-- What a powered port has changed since its TICK in `Attached` began. -/
theorem State.powered_eq (s : State) (tmo : Nat) (sof : Bool) (hemerg : s.flags.emerg = false) :
    s.powered tmo sof = { s with
      ds := .powered, en := { s.en with sofgen := true, discIe := true }
      cnt := { s.cnt with sofcnt := 0, tmo := tmo }, flags := { s.flags with rearm := false, evtSof := false }
      ident := { s.ident with devaddr := 0#7, ctrlMps := s.cfg.ctrlMpsInit }
      pipes := tableSet Pipe.unallocated s.pipes Config.pControl (controlPipe s.cfg.ctrlMpsInit)
      hal := (s.powered tmo sof).hal
      trace := (hals [HalAction.ackConn, .disableDiscInt, .assertReset, .setAddress 0#7, .startSof, .enableDiscInt,
        .configurePipe 0 .control false 0#4 s.cfg.ctrlMpsInit 1 0#8]).reverse ++ s.trace
      inputs := [] } := by
  conv_lhs => rw [← State.setHal_self (s.powered tmo sof)]
  generalize (s.powered tmo sof).hal = h
  simp [State.powered, State.windowOpen, State.windowed, State.busReset, attachActs, openWindowActs, poweredActs, acts,
    act, State.doHal, halEffect, State.onPipe, State.setHalPipe, State.setSofgen, State.advance, hemerg, State.emit,
    State.setDs, State.setEn, State.setCnt, State.setFlags, State.setIdent, State.setPipe, State.setPipes, State.setHal,
    State.setTrace, State.setInputs, hals, Config.pControl]

/-- Settles O20. -/
theorem tickAttachedReachesPowered : Obligations.TickAttachedReachesPowered := by
  intro s hfg hds hconn hemerg hsof hlegal hjobs harmed hin
  obtain ⟨tmo, sof, hrun⟩ := RunsTo.tickAttached hconn hemerg hsof harmed hin
  have hsteps : s.cfg.nPipes + 3 * s.cfg.attachWindow + 24 ≤ burst := by
    simp only [Config.legal, Bool.and_eq_true, decide_eq_true_eq] at hlegal
    simp only [burst]
    omega
  have hexec := hrun.exec_tick hfg hds hsteps rfl
  rw [State.powered_eq s tmo sof hemerg] at hexec
  refine ⟨_, hexec, rfl, rfl, rfl, rfl, rfl, rfl, ?_, ?_, ?_, ?_⟩
  · exact (tableSet_getD ..).trans (if_pos rfl)
  · exact fun p hp => (tableSet_getD ..).trans (if_neg hp)
  · rfl
  · rw [← hfg]
    rfl

end Sys2Proof.Machine
end

section
/-! PROOFS. The family `40_port_fsm.md`, the control transfers that TICK runs inside itself (rule R157, rule R160, rule
R161): each is entered with a request of TICK's own and goes on with TICK's next micro-steps. -/

namespace Sys2Proof.Machine

/-! ### A control transfer up to its SETUP packet -/

/-- A control transfer can be carried out, whatever operation runs it. -/
structure State.CtReady (s : State) : Prop where
  running : s.CtRunning
  on : (s.halPipe Config.pControl).on = true
  onlySof : OnlySof s

theorem ControlReady.ctReady {s : State} (h : ControlReady s) : s.CtReady := by
  obtain ⟨-, -, -, -, hsof, -⟩ := id h
  exact ⟨h.ctRunning, h.on, hsof⟩

/-- What follows the SETUP packet of a transfer (rule R213, rule R214, rule R224), then the micro-steps after it. -/
def ctAnswerSteps (rest : List Micro) : List Micro :=
  .ctPoll .setupAck :: halStep (.ackSetup Config.pControl) :: .ctStage :: .ctExit :: rest

/-- The entry of a transfer and its first start of frame (rule R211, rule R212). -/
theorem RunsTo.ctEnter {s : State} {r : Setup} {b : CtBuf} {rest : List Micro} {es : List Event} (h : s.CtReady)
    (hcap : r.wLength.toNat ≤ b.capacity s.cfg) (hin : s.inputs = atWait (.sof :: .irq :: es)) :
    ∃ n, RunsTo 11 (s.setFg (ctProg r b ++ rest)) ((s.ctEntered r).framed.ctAt {
      pipe := s.halPipe Config.pControl, out := [], ct := ⟨.waitSof, 0, 0, b⟩, st := s.st, tmo := n
      fg := actSteps ctSetupActs ++ ctAnswerSteps rest, events := es }) := by
  rw [ctProg_append, State.ctAt_self h.on hin]
  let waiting : CtView := {
    pipe := s.halPipe Config.pControl, out := [], ct := ⟨.waitSof, 0, 0, b⟩, st := s.st, tmo := s.cnt.tmo
    fg := .ctPollSof :: (actSteps ctSetupActs ++ ctAnswerSteps rest), events := .sof :: .irq :: es }
  let entry : CtView := { waiting with ct := s.ct, fg := actSteps (ctEntryActs r b) ++ waiting.fg }
  have hcheck : micro (.ctCheck r b) (s.ctAt entry) = .ran (s.ctAt entry) := if_neg (Nat.not_lt.mpr hcap)
  have hchecked := RunsTo.ctMicro (v := { entry with fg := .ctCheck r b :: entry.fg }) rfl hcheck
  have hentry := RunsTo.of_acts (l := ctEntryActs r b) (State.ctAt_calm s entry) rfl
  rw [State.ctAt_setFg, acts_ctEntryActs] at hentry
  have hrunning : (s.ctEntered r).CtRunning := h.running.of_eq rfl rfl rfl rfl
  obtain ⟨n, hframe⟩ := RunsTo.ctFrame (v := waiting) hrunning h.onlySof rfl rfl rfl rfl
  exact ⟨n, (hchecked.trans hentry).trans hframe⟩

/-- What is not the view's of a state whose control transfer with the request `r` the device has acknowledged. -/
def State.ctOpenedBy (r : Setup) (s : State) : State := (s.ctEntered r).framed.ctFrozen false

theorem State.CtReady.ctOpenedBy {s : State} (h : s.CtReady) (r : Setup) : (s.ctOpenedBy r).CtRunning :=
  have hframed : (s.ctEntered r).framed.CtRunning := h.running.of_eq rfl rfl rfl rfl
  hframed.ctFrozen false

/-- The view of a transfer whose data stage begins (rule R214). -/
structure CtView.StageBegins (v : CtView) (r : Setup) (b : CtBuf) (rest : List Micro) (es : List Event) : Prop where
  clear : v.pipe.Clear
  token : v.pipe.token = if r.dirIn then .receive else .send
  rem : v.ct.rem = r.wLength.toNat
  off : v.ct.off = 0
  buf : v.ct.buf = b
  fg : v.fg = (if r.dirIn then .ctInLoop else .ctOutLoop) :: .ctExit :: rest
  events : v.events = es
  out : fifoBytes 0 (hals v.out) = (List.range 8).map r.byte

theorem fifoBytes_setup (r : Setup) : fifoBytes 0 (hals r.actions) = (List.range 8).map r.byte := rfl

/-- A transfer up to its data stage: the device acknowledges the SETUP packet (rule R211 to rule R214). -/
theorem RunsTo.ctBegin {s : State} {r : Setup} {b : CtBuf} {rest : List Micro} {es : List Event} (h : s.CtReady)
    (hcap : r.wLength.toNat ≤ b.capacity s.cfg)
    (hin : s.inputs = atWait (.sof :: .irq :: .setupAck Config.pControl :: es)) :
    ∃ v : CtView, v.StageBegins r b rest es ∧
      RunsTo 33 (s.setFg (ctProg r b ++ rest)) ((s.ctOpenedBy r).ctAt v) := by
  obtain ⟨n, henter⟩ := RunsTo.ctEnter (rest := rest) h hcap hin
  have hframed : (s.ctEntered r).framed.CtRunning := h.running.of_eq rfl rfl rfl rfl
  obtain ⟨p, hclear, hsetup⟩ := RunsTo.ctSetup hframed (v := {
    pipe := s.halPipe Config.pControl, out := [], ct := ⟨.waitSof, 0, 0, b⟩, st := s.st, tmo := n
    fg := actSteps ctSetupActs ++ ctAnswerSteps rest, events := .setupAck Config.pControl :: es }) h.on rfl rfl
  have hstage := (henter.trans hsetup).trans (.ctStage (h.ctOpenedBy r) hclear.on rfl)
  refine ⟨_, ⟨{ hclear with }, rfl, rfl, rfl, rfl, rfl, rfl, ?_⟩, hstage⟩
  have hout : fifoBytes 0 (hals (r.actions ++ [.ackSetup Config.pControl] ++
      [.setToken Config.pControl (if r.dirIn then .receive else .send)])) = (List.range 8).map r.byte := by
    rw [fifoBytes_hals_append, fifoBytes_hals_append, fifoBytes_setup]
    rfl
  exact hout

/-! ### Starts of frame during a transfer (rule R218, rule R421) -/

/-- What is not the view's of a state after `n` starts of frame, of which the last one is not yet taken. -/
def State.framedBy (n : Nat) (u : State) : State :=
  { u with
    flags := { u.flags with evtSof := true }, jobs := countJobs^[n] u.jobs, hal := { u.hal with sof := false } }

@[simp] theorem State.framedBy_cfg (n : Nat) (u : State) : (u.framedBy n).cfg = u.cfg := rfl
@[simp] theorem State.framedBy_ident (n : Nat) (u : State) : (u.framedBy n).ident = u.ident := rfl
@[simp] theorem State.framedBy_sr (n : Nat) (u : State) : (u.framedBy n).sr = u.sr := rfl
@[simp] theorem State.framedBy_lowSpeed (n : Nat) (u : State) : (u.framedBy n).hal.lowSpeed = u.hal.lowSpeed := rfl

theorem State.framedBy_framedBy (n k : Nat) (u : State) : (u.framedBy k).framedBy n = u.framedBy (n + k) := by
  simp only [State.framedBy, Function.iterate_add_apply]

section
variable (b : CtBuf) (off : Nat) (l : List Byte) (s : State)

@[simp] theorem State.store_cfg : (s.store b off l).cfg = s.cfg := by cases b <;> rfl
@[simp] theorem State.store_flags : (s.store b off l).flags = s.flags := by cases b <;> rfl
@[simp] theorem State.store_en : (s.store b off l).en = s.en := by cases b <;> rfl
@[simp] theorem State.store_ident : (s.store b off l).ident = s.ident := by cases b <;> rfl
@[simp] theorem State.store_sr : (s.store b off l).sr = s.sr := by cases b <;> rfl
@[simp] theorem State.store_hal : (s.store b off l).hal = s.hal := by cases b <;> rfl

theorem State.store_framedBy (n : Nat) : (s.store b off l).framedBy n = (s.framedBy n).store b off l := by
  cases b <;> rfl

theorem State.store_append (l' : List Byte) :
    (s.store b off l).store b (off + l.length) l' = s.store b off (l ++ l') := by
  induction l generalizing off s with
  | nil => rw [State.store_nil, List.length_nil, Nat.add_zero, List.nil_append]
  | cons x xs ih =>
    have hplace : off + (x :: xs).length = off + 1 + xs.length := by
      rw [List.length_cons]
      omega
    rw [List.cons_append, State.store_cons, hplace, ih, ← State.store_cons]

end

/-- An IN data stage can go on over `u`: the transfer runs, has seen its first start of frame, and counts frames. -/
structure State.Reading (u : State) : Prop where
  running : u.CtRunning
  onlySof : OnlySof u
  sofie : u.en.sofie = true
  seen : u.framedBy 0 = u

theorem State.Reading.framedBy {u : State} (h : u.Reading) (n : Nat) : (u.framedBy n).Reading :=
  ⟨h.running.of_eq rfl rfl rfl rfl, h.onlySof, h.sofie, by rw [State.framedBy_framedBy, Nat.zero_add]⟩

theorem State.Reading.store {u : State} (h : u.Reading) (b : CtBuf) (off : Nat) (l : List Byte) :
    (u.store b off l).Reading where
  running := h.running.store b off l
  onlySof := by simpa [OnlySof] using h.onlySof
  sofie := by rw [State.store_en, h.sofie]
  seen := by rw [State.store_framedBy, h.seen]

/-- The keep-alive of a low-speed link: the wait for a start of frame between two IN packets (rule R218). -/
theorem RunsTo.ctKeepAlive {u : State} {v : CtView} {rest : List Micro} {es : List Event} (h : u.Reading)
    (hfg : v.fg = Machine.ctKeepAlive ++ rest) (hes : v.events = .sof :: .irq :: es) :
    ∃ n, RunsTo 5 (u.ctAt v) ((u.framedBy 1).ctAt { v with
      ct := { v.ct with phase := .keepAlive }, tmo := n, fg := rest, events := es }) := by
  let cleared : State := { u with flags := { u.flags with evtSof := false } }
  let waiting : CtView := { v with ct := { v.ct with phase := .keepAlive }, fg := .ctPollSof :: rest }
  have hphase : RunsTo 1 (u.ctAt v) (u.ctAt { waiting with fg := .act .clearEvtSof :: waiting.fg }) :=
    .ctMicro hfg rfl
  have hclear : RunsTo 1 (u.ctAt { waiting with fg := .act .clearEvtSof :: waiting.fg }) (cleared.ctAt waiting) :=
    .ctAct rfl rfl
  have hcleared : cleared.CtRunning := h.running.of_eq rfl rfl rfl rfl
  obtain ⟨n, hframe⟩ := RunsTo.ctFrame hcleared h.onlySof rfl h.sofie (v := waiting) rfl hes
  exact ⟨n, (hphase.trans hclear).trans hframe⟩

/-- After a full packet that is not the last: a keep-alive on a low-speed link, then the next IN token (rule R216, rule
R218). -/
theorem RunsTo.ctInMore {u : State} {v : CtView} {rest : List Micro} {es : List Event} {n : Nat} (h : u.Reading)
    (hn : u.ident.ctrlMps ≤ n) (hinc : u.sr.incompleteRead = false) (hrem : 0 < v.ct.rem)
    (hfg : v.fg = .ctInNext n :: rest) (hes : v.events = (if u.hal.lowSpeed then frame else []) ++ es) :
    ∃ (k tmo : Nat) (phase : CtPhase), RunsTo 6 (u.ctAt v) ((u.framedBy k).ctAt { v with
      ct := { v.ct with phase := phase }, tmo := tmo, fg := .ctInLoop :: rest, events := es }) := by
  have hnext : micro (.ctInNext n) (u.ctAt { v with fg := rest }) = .ran (u.ctAt { v with
      fg := (if u.hal.lowSpeed then Machine.ctKeepAlive else []) ++ .ctInLoop :: rest }) := by
    have hlow : (u.ctAt { v with fg := rest }).hal.lowSpeed = u.hal.lowSpeed := rfl
    simp only [micro, Machine.ctInNext, State.ctAt_ident, State.ctAt_sr, State.ctAt_ct, hinc, hrem, hlow,
      decide_true, Bool.true_and, Bool.false_eq_true, Nat.not_lt.mpr hn, if_false]
    cases u.hal.lowSpeed <;> rfl
  have hstep := RunsTo.ctMicro hfg hnext
  cases hlow : u.hal.lowSpeed with
  | false =>
    rw [hlow] at hstep hes
    refine ⟨0, v.tmo, v.ct.phase, ?_⟩
    rw [h.seen]
    have hevents : es = v.events := hes.symm
    rw [hevents]
    exact hstep.mono (by decide)
  | true =>
    rw [hlow] at hstep hes
    obtain ⟨tmo, hkeep⟩ := RunsTo.ctKeepAlive (v := { v with fg := Machine.ctKeepAlive ++ .ctInLoop :: rest }) h rfl hes
    exact ⟨1, tmo, .keepAlive, hstep.trans hkeep⟩

/-! ### The IN data stage (rule R215 to rule R218) -/

/-- The packets that end an IN stage of at most `len` bytes: full ones that leave room, then one that is short, brings what
was still asked for, or is the first of an `incomplete_read`. -/
structure EndsRead (mps len cap : Nat) (incomplete : Bool) (full : List (List Byte)) (last : List Byte) : Prop where
  size : ∀ p ∈ full, p.length = mps
  room : full.flatten.length < len
  ends : last.length < mps ∨ incomplete = true ∨ len ≤ full.flatten.length + last.length
  fits : ∀ p ∈ full ++ [last], p.length ≤ cap
  more : full = [] ∨ incomplete = false

theorem EndsStage.endsRead {mps len cap : Nat} {full : List (List Byte)} {last : List Byte}
    (h : EndsStage mps len cap full last) : EndsRead mps len cap false full last := by
  obtain ⟨hfull, hroom, hends, hfits⟩ := h
  exact ⟨hfull, hroom, hends.imp_right .inr, hfits, .inr rfl⟩

theorem EndsRead.tail {mps len cap : Nat} {incomplete : Bool} {p : List Byte} {full : List (List Byte)} {last : List Byte}
    (h : EndsRead mps len cap incomplete (p :: full) last) :
    EndsRead mps (len - p.length) cap incomplete full last := by
  obtain ⟨hfull, hroom, hends, hfits, hmore⟩ := h
  rw [List.flatten_cons, List.length_append] at hroom hends
  refine ⟨fun q hq => hfull q (List.mem_cons_of_mem _ hq), by omega, hends.imp_right (Or.imp_right fun h => by omega),
    fun q hq => hfits q (List.mem_cons_of_mem _ hq), .inr ?_⟩
  exact hmore.resolve_left (List.cons_ne_nil _ _)

/-- The HAL actions of one IN packet of which `n` bytes are stored (rule R215). -/
def inPacketActions (n : Nat) : List HalAction :=
  [.unfreezePipe Config.pControl, .sendIn Config.pControl, .freezePipe Config.pControl] ++
    List.replicate n (.fifoRead Config.pControl) ++ [.ackIn Config.pControl]

theorem fifoBytes_inPacketActions (p n : Nat) : fifoBytes p (hals (inPacketActions n)) = [] := by
  have hreads : fifoBytes p (hals (List.replicate n (.fifoRead Config.pControl))) = [] := by
    simp [fifoBytes, hals]
  rw [inPacketActions, fifoBytes_hals_append, fifoBytes_hals_append, hreads]
  rfl

/-- The view after an IN packet of which `n` bytes have been stored (rule R215). -/
def CtView.packetTaken (v : CtView) (h : HalPipe) (n : Nat) (fg : List Micro) (es : List Event) : CtView where
  pipe := h
  out := v.out ++ inPacketActions n
  ct := ⟨.dataIn, v.ct.rem - n, v.ct.off + n, v.ct.buf⟩
  st := Status.good
  tmo := 0
  fg := fg
  events := es

theorem CtView.packetTaken_out (v : CtView) (h : HalPipe) (n : Nat) (fg : List Micro) (es : List Event) :
    fifoBytes 0 (hals (v.packetTaken h n fg es).out) = fifoBytes 0 (hals v.out) := by
  rw [CtView.packetTaken, fifoBytes_hals_append, fifoBytes_inPacketActions, List.append_nil]

/-- One IN packet of the data stage, arrived and stored (rule R215). -/
theorem RunsTo.ctInStored {u : State} {v : CtView} {rest : List Micro} {es : List Event} {bytes : List Byte}
    (hu : u.CtRunning) (hc : v.pipe.Clear) (htoken : v.pipe.token = .receive) (hrem : 0 < v.ct.rem)
    (hfit : bytes.length ≤ u.cfg.cap Config.pControl) (hcap : v.ct.off + v.ct.rem ≤ v.ct.buf.capacity u.cfg)
    (hfg : v.fg = .ctInLoop :: rest) (hes : v.events = .inPacket Config.pControl bytes :: es) :
    let got := bytes.take v.ct.rem
    ∃ h : HalPipe, h.Clear ∧ h.token = .receive ∧
      RunsTo (got.length + 12) (u.ctAt v) ((u.store v.ct.buf v.ct.off got).ctAt
        (v.packetTaken h got.length (.ctInNext bytes.length :: rest) es)) := by
  intro got
  have harrived := RunsTo.ctInPacket hu hc htoken hrem hfit hfg hes
  have htaken := harrived.trans (.ctInTake hu hc.on rfl hcap rfl)
  let acked : HalPipe :=
    { v.pipe with frozen := true, inReady := false, byteCount := bytes.length, fifo := [] }
  refine ⟨acked, { hc with inReady := rfl }, htoken, ?_⟩
  simpa [CtView.packetTaken, inPacketActions, got, acked] using
    htaken.mono (by omega : 8 + (got.length + 4) ≤ got.length + 12)

/-- What an IN data stage that has come to its status stage has done: stored `got`, and written nothing to the FIFO. -/
structure CtView.StageRead (v w : CtView) (got : List Byte) (rest : List Micro) (es : List Event) : Prop where
  clear : w.pipe.Clear
  off : w.ct.off = v.ct.off + got.length
  buf : w.ct.buf = v.ct.buf
  fg : w.fg = ctStatusOut ++ rest
  events : w.events = es
  out : fifoBytes 0 (hals w.out) = fifoBytes 0 (hals v.out)

/-- The IN data stage: full packets, with a keep-alive after each on a low-speed link, and the one that ends it. -/
theorem RunsTo.ctInPackets {full : List (List Byte)} {last : List Byte} {u : State} {v : CtView} {rest : List Micro}
    {es : List Event} (hu : u.Reading) (hc : v.pipe.Clear) (htoken : v.pipe.token = .receive)
    (hends : EndsRead u.ident.ctrlMps v.ct.rem (u.cfg.cap Config.pControl) u.sr.incompleteRead full last)
    (hcap : v.ct.off + v.ct.rem ≤ v.ct.buf.capacity u.cfg) (hfg : v.fg = .ctInLoop :: rest)
    (hes : v.events = arrivals 0 u.hal.lowSpeed full last ++ es) :
    let got := (full.flatten ++ last).take v.ct.rem
    ∃ (n : Nat) (w : CtView), RunsTo (18 * full.length + got.length + 14) (u.ctAt v)
      (((u.framedBy n).store v.ct.buf v.ct.off got).ctAt w) ∧ v.StageRead w got rest es := by
  induction full generalizing u v with
  | nil =>
    intro got
    obtain ⟨-, hroom, hend, hfits, -⟩ := hends
    obtain ⟨h, hclear, -, hstored⟩ := RunsTo.ctInStored hu.running hc htoken hroom (hfits last List.mem_cons_self)
      hcap hfg hes
    have hall : v.ct.rem ≤ last.length → v.ct.rem - (last.take v.ct.rem).length = 0 :=
      fun hle => Nat.sub_eq_zero_of_le (List.length_take_of_le hle).ge
    have hended := hstored.trans (.ctInNext (by
      rw [State.store_ident, State.store_sr]
      exact hend.imp_right (Or.imp_right fun hle => hall (by simpa using hle))) rfl)
    refine ⟨0, v.packetTaken h got.length (Machine.ctStatusOut ++ rest) es, ?_, hclear, rfl, rfl, rfl, rfl,
      CtView.packetTaken_out ..⟩
    rw [hu.seen]
    exact hended.mono (by simp [got])
  | cons p full ih =>
    intro got
    have hsize : p.length = u.ident.ctrlMps := hends.size p List.mem_cons_self
    have hroom : p.length + full.flatten.length < v.ct.rem := by simpa using hends.room
    have hinc : u.sr.incompleteRead = false := hends.more.resolve_left (List.cons_ne_nil _ _)
    have htake : p.take v.ct.rem = p := List.take_of_length_le (by omega)
    let es' := arrivals 0 u.hal.lowSpeed full last ++ es
    have hes' : v.events = .inPacket 0 p :: ((if u.hal.lowSpeed then frame else []) ++ es') := by
      simp [hes, es', arrivals]
    obtain ⟨h, hclear, htoken', hstored⟩ := RunsTo.ctInStored hu.running hc htoken (by omega)
      (hends.fits p List.mem_cons_self) hcap hfg hes'
    rw [htake] at hstored
    let stored := u.store v.ct.buf v.ct.off p
    obtain ⟨k, tmo, phase, hmore⟩ := RunsTo.ctInMore (u := stored) (es := es') (v := v.packetTaken h p.length
      (.ctInNext p.length :: rest) ((if u.hal.lowSpeed then frame else []) ++ es')) (hu.store _ _ _)
      (by simp [stored, hsize]) (by simpa [stored] using hinc) (Nat.sub_pos_of_lt (by omega)) rfl
      (by rw [State.store_hal]; rfl)
    let next : CtView := { v.packetTaken h p.length (.ctInLoop :: rest) es' with
      ct := ⟨phase, v.ct.rem - p.length, v.ct.off + p.length, v.ct.buf⟩, tmo := tmo }
    have hrem : next.ct.rem = v.ct.rem - p.length := rfl
    have hplace : next.ct.off = v.ct.off + p.length := rfl
    have hbuf : next.ct.buf = v.ct.buf := rfl
    obtain ⟨n, w, hrun, hread⟩ := ih (u := stored.framedBy k) (v := next) ((hu.store _ _ _).framedBy k) hclear htoken'
      (by simpa [stored, hrem] using hends.tail) (by rw [hrem, hplace, hbuf]; simp [stored]; omega) rfl
      (by simp [stored, next, CtView.packetTaken, es'])
    have hgot : got = p ++ (full.flatten ++ last).take next.ct.rem := by
      rw [hrem]
      simp only [got, List.flatten_cons, List.append_assoc, List.take_append (l₁ := p), htake]
    have hstore : (((stored.framedBy k).framedBy n).store next.ct.buf next.ct.off
        ((full.flatten ++ last).take next.ct.rem)) = (u.framedBy (n + k)).store v.ct.buf v.ct.off got := by
      rw [State.framedBy_framedBy, hplace, hbuf, hgot, State.store_framedBy, State.store_append]
    rw [hstore] at hrun
    refine ⟨n + k, w, ((hstored.trans hmore).trans hrun).mono ?_, ?_⟩
    · simp only [hgot, List.length_cons, List.length_append]
      omega
    · obtain ⟨hwclear, hwoff, hwbuf, hwfg, hwes, hwout⟩ := hread
      refine ⟨hwclear, ?_, hwbuf, hwfg, hwes, 
        hwout.trans (CtView.packetTaken_out v h p.length (.ctInLoop :: rest) es')⟩
      rw [hwoff, hplace, hgot, List.length_append, Nat.add_assoc]

/-! ### The end of a transfer (rule R224) -/

/-- The exit of a control transfer that ends with `Good`; its result is left to whoever runs it (rule R224). -/
def State.ctLeft (c : CtRegs) (u : State) : State :=
  { u with
    pipes := (u.ctFrozen true).pipes, en := { u.en with sofie := u.en.sofieSaveFg }
    cacheLen := if u.sr.dirIn = true ∧ c.buf = .cache then c.off else u.cacheLen }

theorem RunsTo.ctLeave {u : State} {v : CtView} {rest : List Micro} (hu : u.CtRunning) (hon : v.pipe.on = true)
    (hst : v.st = Status.good) (hfg : v.fg = .ctExit :: rest) :
    RunsTo 10 (u.ctAt v) ((u.ctLeft v.ct).ctAt { v with
      pipe := { v.pipe with frozen := true }, out := v.out ++ [.freezePipe Config.pControl]
      ct := ⟨.idle, 0, 0, .none⟩, st := Status.good, fg := rest }) := by
  have hexit : RunsTo 1 (u.ctAt v)
      (u.ctAt { v with st := Status.good, fg := ctExitSteps Status.good ++ rest }) :=
    .ctMicro hfg (by simp only [micro, State.ctAt_st, ← hst]; rfl)
  have hfreeze := hexit.trans (.ctActs (l := [.hal (.freezePipe Config.pControl)]) hu.alloc hon rfl rfl)
  have hlen := (hfreeze.trans (.ctAct (u' := u.ctFrozen true) rfl rfl)).trans (.ctLen rfl)
  have hregs := hlen.trans (.ctActs (l := [.ctPhase .idle, .ctRem 0, .ctOff 0, .ctBuf .none])
    (hu.ctFrozen true).alloc hon rfl rfl)
  exact hregs.trans (.ctAct (a := .critSofPop) (u' := u.ctLeft v.ct) rfl rfl)

/-- What depends on the device in what a transfer with `Good` leaves. -/
structure CtDone where
  frames : Nat
  pipe : HalPipe
  out : List HalAction
  cache : List Host.Cell
  cacheLen : Nat
  events : List Event

/-- The state after a control transfer into `CACHE` with the request `r` that ended with `Good` (rule R211 to rule R224). -/
def State.afterTransfer (r : Setup) (d : CtDone) (s : State) : State :=
  { s with
    sr := r, ct := ⟨.idle, 0, 0, .none⟩, flags := { s.flags with evtSof := true }
    en := { s.en with sofieSaveFg := s.en.sofie }, cnt := { s.cnt with tmo := 0 }, st := Status.good
    jobs := countJobs^[d.frames] s.jobs, cache := d.cache, cacheLen := d.cacheLen
    pipes := ((s.ctFrozen false).ctFrozen true).pipes
    hal := { s.hal with sof := false, pipes := tableSet HalPipe.disabled s.hal.pipes Config.pControl d.pipe }
    trace := (hals d.out).reverse ++ s.trace, inputs := atWait d.events }

/-- A transfer that TICK runs and that ends with `Good`: it leaves this in `CACHE` and `CACHE_LEN`, and has written to the
FIFO of the control pipe its SETUP packet and nothing else. -/
structure CtDone.Of (d : CtDone) (r : Setup) (cache : List Host.Cell) (len : Nat) (es : List Event) : Prop where
  on : d.pipe.on = true
  cache : d.cache = cache
  cacheLen : d.cacheLen = len
  events : d.events = es
  out : fifoBytes 0 (hals d.out) = (List.range 8).map r.byte

/-- What the exit of a transfer into `CACHE` leaves, over a state that has seen its frames and stored its bytes. -/
theorem State.ctLeft_eq (s : State) (r : Setup) (n : Nat) (got : List Byte) (c : CtRegs) (p : HalPipe)
    (out : List HalAction) (fg : List Micro) (es : List Event) :
    ((((s.ctOpenedBy r).framedBy n).store .cache 0 got).ctLeft c).ctAt
      ⟨p, out, ⟨.idle, 0, 0, .none⟩, Status.good, 0, fg, es⟩ =
      (s.afterTransfer r ⟨n + 1, p, out, Memory.writeBytes s.cache 0 got,
        if r.dirIn = true ∧ c.buf = .cache then c.off else s.cacheLen, es⟩).setFg fg := by
  simp only [State.ctAt, State.ctLeft, State.store, State.framedBy, State.ctOpenedBy, State.ctEntered, State.framed,
    State.ctFrozen, State.afterTransfer, State.setCache, State.setFg, State.pipe, Function.iterate_add_apply,
    Function.iterate_one]
  rfl

/-- An IN transfer into `CACHE` that TICK runs: the device acknowledges the SETUP packet, answers with packets that end the
data stage, and accepts the status stage. -/
theorem RunsTo.ctFetch {s : State} {r : Setup} {full : List (List Byte)} {last : List Byte} {rest : List Micro}
    {es : List Event} (h : s.CtReady) (hdir : r.dirIn = true) (hcap : r.wLength.toNat ≤ s.cfg.sizeofDataStage)
    (hends : EndsRead s.ident.ctrlMps r.wLength.toNat (s.cfg.cap 0) r.incompleteRead full last)
    (hin : s.inputs = atWait (frame ++ [.setupAck 0] ++ arrivals 0 s.hal.lowSpeed full last ++ [.outReady 0] ++ es)) :
    let got := (full.flatten ++ last).take r.wLength.toNat
    ∃ d : CtDone, RunsTo (18 * full.length + got.length + 66) (s.setFg (ctProg r .cache ++ rest))
      ((s.afterTransfer r d).setFg rest) ∧ d.Of r (Memory.writeBytes s.cache 0 got) got.length es := by
  intro got
  have hscript : s.inputs = atWait (.sof :: .irq :: .setupAck 0 ::
      (arrivals 0 s.hal.lowSpeed full last ++ .outReady 0 :: es)) := by
    rw [hin]
    simp [frame]
  obtain ⟨v, hbegins, hbegin⟩ := RunsTo.ctBegin (b := .cache) (rest := rest) h hcap hscript
  have hreading : (s.ctOpenedBy r).Reading := ⟨h.ctOpenedBy r, h.onlySof, rfl, rfl⟩
  obtain ⟨hclear, htoken, hrem, hoff, hbuf, hfg, hes, hout⟩ := hbegins
  rw [hdir, if_pos rfl] at htoken hfg
  obtain ⟨n, w, hrun, hread⟩ := RunsTo.ctInPackets hreading hclear htoken (by rw [hrem]; exact hends)
    (by rw [hrem, hoff, hbuf, Nat.zero_add]; exact hcap) hfg hes
  rw [hrem, hoff, hbuf] at hrun
  obtain ⟨hwclear, hwoff, hwbuf, hwfg, hwes, hwout⟩ := hread
  have hstored : (((s.ctOpenedBy r).framedBy n).store .cache 0 got).CtRunning := ((hreading.framedBy n).store ..).running
  have hstatus := (hbegin.trans hrun).trans (.ctStatusOut hstored hwclear hwfg hwes)
  have hleft := hstatus.trans (.ctLeave hstored hwclear.on rfl rfl)
  rw [State.ctLeft_eq] at hleft
  refine ⟨_, hleft.mono (by simp only [got]; omega), ⟨hwclear.on, rfl, ?_, rfl, ?_⟩⟩
  · rw [if_pos ⟨hdir, hwbuf.trans hbuf⟩, hwoff, hoff, hrem, Nat.zero_add]
  · rw [fifoBytes_hals_append, fifoBytes_hals_append, hwout, hout]
    rfl

/-- A request without a data stage that TICK runs, direction OUT: the device acknowledges the SETUP packet and answers the
IN status stage. -/
theorem RunsTo.ctSet {s : State} {r : Setup} {rest : List Micro} {es : List Event} (h : s.CtReady)
    (hdir : r.dirIn = false) (hlen : r.wLength = 0#16)
    (hin : s.inputs = atWait (frame ++ [.setupAck 0, .inPacket 0 []] ++ es)) :
    ∃ d : CtDone, RunsTo 53 (s.setFg (ctProg r .cache ++ rest)) ((s.afterTransfer r d).setFg rest) ∧
      d.Of r s.cache s.cacheLen es := by
  have hcap : r.wLength.toNat ≤ CtBuf.cache.capacity s.cfg := by simp [hlen]
  obtain ⟨v, ⟨hclear, -, hrem, -, -, hfg, hes, hout⟩, hbegin⟩ := RunsTo.ctBegin (rest := rest) h hcap hin
  rw [hdir, if_neg Bool.false_ne_true] at hfg
  have hempty : ¬ 0 < v.ct.rem := by simp [hrem, hlen]
  have hu := h.ctOpenedBy r
  have hdone : RunsTo 1 ((s.ctOpenedBy r).ctAt v)
      ((s.ctOpenedBy r).ctAt { v with fg := Machine.ctStatusIn ++ .ctExit :: rest }) := by
    refine .ctMicro hfg ?_
    simp only [micro, State.ctAt_ct, hempty, if_false]
    rfl
  have hstatus := (hbegin.trans hdone).trans (.ctStatusIn hu hclear rfl hes)
  have hleft := hstatus.trans (.ctLeave hu hclear.on rfl rfl)
  have hbase : s.ctOpenedBy r = ((s.ctOpenedBy r).framedBy 0).store .cache 0 [] := rfl
  rw [hbase, State.ctLeft_eq] at hleft
  refine ⟨_, hleft, ⟨hclear.on, rfl, ?_, rfl, ?_⟩⟩
  · exact if_neg fun hin => Bool.false_ne_true (hdir ▸ hin.1)
  · rw [fifoBytes_hals_append, fifoBytes_hals_append, hout]
    rfl

theorem State.CtReady.afterTransfer {s : State} (h : s.CtReady) (r : Setup) {d : CtDone} (hon : d.pipe.on = true) :
    (s.afterTransfer r d).CtReady := by
  have hfrozen : ((s.ctFrozen false).ctFrozen true).CtRunning := (h.running.ctFrozen false).ctFrozen true
  refine ⟨hfrozen.of_eq rfl rfl rfl rfl, ?_, h.onlySof⟩
  rw [State.halPipe, State.afterTransfer, tableSet_getD, if_pos rfl]
  exact hon

/-! ### A transfer that fails (rule R224) -/

/-- A HAL action under a test changes what the HAL holds and the outputs, nothing else. -/
theorem State.guarded_hal (b : Bool) (a : HalAction) (s : State) :
    ∃ (hal : Hal) (trace : List Output), s.guarded b [.hal a] = (s.setHal hal).setTrace trace := by
  cases b
  · exact ⟨s.hal, s.trace, rfl⟩
  · exact ⟨(s.doHal a).hal, .hal a :: s.trace, State.doHal_eq a s⟩

/-- What is pending on the control pipe is acknowledged (rule R224). -/
def State.ctAcked (s : State) : State :=
  let acked := s.guarded (decide ((s.halPipe Config.pControl).error ≠ 0#5)) [.hal (.ackErrors Config.pControl)]
  acked.guarded (acked.halPipe Config.pControl).stall [.hal (.ackStall Config.pControl)]

/-- `CACHE_LEN` is written after an IN request into `CACHE` (rule R224). -/
def State.ctLatched (s : State) : State := s.guarded (s.sr.dirIn && decide (s.ct.buf = .cache)) [.latchCacheLen]

/-- The exit of a control transfer that ends with another status than `Good` (rule R224). -/
def State.ctFailed (s : State) : State :=
  acts [.ctPhase .idle, .ctRem 0, .ctOff 0, .ctBuf .none, .critSofPop]
    (acts [.hal (.resetPipe Config.pControl), .setFrozen Config.pControl true] s.ctAcked).ctLatched

theorem State.ctAcked_eq (s : State) : ∃ (hal : Hal) (trace : List Output), s.ctAcked = (s.setHal hal).setTrace trace := by
  obtain ⟨h, t, herrors⟩ := State.guarded_hal (decide ((s.halPipe Config.pControl).error ≠ 0#5))
    (.ackErrors Config.pControl) s
  obtain ⟨h', t', hstall⟩ := State.guarded_hal (((s.setHal h).setTrace t).halPipe Config.pControl).stall
    (.ackStall Config.pControl) ((s.setHal h).setTrace t)
  refine ⟨h', t', ?_⟩
  rw [State.ctAcked, herrors, hstall]
  rfl

theorem State.ctLatched_eq (s : State) :
    s.ctLatched = s.setCacheLen (if s.sr.dirIn = true ∧ s.ct.buf = .cache then s.ct.off else s.cacheLen) := by
  have hlatch : ∀ b : Bool, s.guarded b [.latchCacheLen] = s.setCacheLen (if b = true then s.ct.off else s.cacheLen) := by
    intro b
    cases b <;> rfl
  rw [State.ctLatched, hlatch]
  simp only [Bool.and_eq_true, decide_eq_true_eq]

theorem RunsTo.ctAckAll {s : State} {rest : List Micro} (hc : s.calm = true) :
    RunsTo 4 (s.setFg (.ctAckErrors :: .ctAckStall :: rest)) (s.ctAcked.setFg rest) := by
  have herrors := RunsTo.onlyIf (m := .ctAckErrors) (rest := .ctAckStall :: rest) _ [.hal (.ackErrors Config.pControl)] hc
    rfl
  exact herrors.trans (.onlyIf _ [.hal (.ackStall Config.pControl)] (by simpa using hc) rfl)

theorem RunsTo.ctFail {s : State} {rest : List Micro} (hc : s.calm = true) (hst : s.st ≠ Status.good) :
    RunsTo 14 (s.setFg (.ctExit :: rest)) (s.ctFailed.setFg rest) := by
  have hexit : RunsTo 1 (s.setFg (.ctExit :: rest)) (s.setFg (ctExitSteps s.st ++ rest)) := .of_micro hc rfl rfl hc
  rw [ctExitSteps, if_pos hst] at hexit
  have hcalm : s.ctAcked.calm = true := by simpa [State.ctAcked] using hc
  have hreset := (hexit.trans (.ctAckAll hc)).trans (.straight [.hal (.resetPipe Config.pControl),
    .setFrozen Config.pControl true] hcalm)
  have hlen := hreset.trans (.onlyIf _ [.latchCacheLen] (by simpa using hcalm) rfl)
  rw [State.setFg_sr, State.setFg_ct] at hlen
  exact hlen.trans (.straight [.ctPhase .idle, .ctRem 0, .ctOff 0, .ctBuf .none, .critSofPop] (by simpa using hcalm))

/-- What a failed transfer leaves. -/
theorem State.ctFailed_eq (s : State) : ∃ (hal : Hal) (trace : List Output), s.ctFailed = { s with
    ct := ⟨.idle, 0, 0, .none⟩, pipes := (s.ctFrozen true).pipes, en := { s.en with sofie := s.en.sofieSaveFg }
    cacheLen := if s.sr.dirIn = true ∧ s.ct.buf = .cache then s.ct.off else s.cacheLen
    hal := hal, trace := trace } := by
  obtain ⟨h, t, hacked⟩ := State.ctAcked_eq s
  obtain ⟨hal, trace, hreset⟩ : ∃ (hal : Hal) (trace : List Output),
      ((s.setHal h).setTrace t).doHal (.resetPipe Config.pControl) = (s.setHal hal).setTrace trace :=
    ⟨_, _, State.doHal_eq ..⟩
  refine ⟨hal, trace, ?_⟩
  have hfrozen : acts [.hal (.resetPipe Config.pControl), .setFrozen Config.pControl true] s.ctAcked =
      act (.setFrozen Config.pControl true) ((s.setHal hal).setTrace trace) := by
    rw [hacked, ← hreset]
    rfl
  rw [State.ctFailed, hfrozen, State.ctLatched_eq]
  simp only [acts, act, State.sofPop, State.ctFrozen, State.setCt, State.setEn, State.setCacheLen, State.setPipe,
    State.setPipes, State.setHal, State.setTrace, State.pipe]
  rfl

section
variable (s : State)

@[simp] theorem State.ctFailed_cfg : s.ctFailed.cfg = s.cfg := by
  obtain ⟨_, _, h⟩ := s.ctFailed_eq
  rw [h]

@[simp] theorem State.ctFailed_ds : s.ctFailed.ds = s.ds := by
  obtain ⟨_, _, h⟩ := s.ctFailed_eq
  rw [h]

@[simp] theorem State.ctFailed_flags : s.ctFailed.flags = s.flags := by
  obtain ⟨_, _, h⟩ := s.ctFailed_eq
  rw [h]

@[simp] theorem State.ctFailed_cnt : s.ctFailed.cnt = s.cnt := by
  obtain ⟨_, _, h⟩ := s.ctFailed_eq
  rw [h]

@[simp] theorem State.ctFailed_ident : s.ctFailed.ident = s.ident := by
  obtain ⟨_, _, h⟩ := s.ctFailed_eq
  rw [h]

@[simp] theorem State.ctFailed_jobs : s.ctFailed.jobs = s.jobs := by
  obtain ⟨_, _, h⟩ := s.ctFailed_eq
  rw [h]

@[simp] theorem State.ctFailed_cache : s.ctFailed.cache = s.cache := by
  obtain ⟨_, _, h⟩ := s.ctFailed_eq
  rw [h]

@[simp] theorem State.ctFailed_hbuf : s.ctFailed.hbuf = s.hbuf := by
  obtain ⟨_, _, h⟩ := s.ctFailed_eq
  rw [h]

@[simp] theorem State.ctFailed_inputs : s.ctFailed.inputs = s.inputs := by
  obtain ⟨_, _, h⟩ := s.ctFailed_eq
  rw [h]

@[simp] theorem State.ctFailed_st : s.ctFailed.st = s.st := by
  obtain ⟨_, _, h⟩ := s.ctFailed_eq
  rw [h]

@[simp] theorem State.ctFailed_en : s.ctFailed.en = { s.en with sofie := s.en.sofieSaveFg } := by
  obtain ⟨_, _, h⟩ := s.ctFailed_eq
  rw [h]

@[simp] theorem State.ctFailed_cacheLen :
    s.ctFailed.cacheLen = if s.sr.dirIn = true ∧ s.ct.buf = .cache then s.ct.off else s.cacheLen := by
  obtain ⟨_, _, h⟩ := s.ctFailed_eq
  rw [h]

end

/-- After an emergency a transfer ends with `Timeout` at its first wait (rule R212, rule R480). -/
theorem RunsTo.ctEmergency {s : State} {r : Setup} {b : CtBuf} {rest : List Micro} (hc : s.calm = true)
    (hemerg : s.flags.emerg = true) (hcap : r.wLength.toNat ≤ b.capacity s.cfg) :
    RunsTo 23 (s.setFg (ctProg r b ++ rest))
      (((acts (ctEntryActs r b) s).setSt Status.timeout).ctFailed.setFg rest) := by
  let waiting := actSteps ctSetupActs ++ ctAnswerSteps rest
  have hcheck : RunsTo 1 (s.setFg (ctProg r b ++ rest)) (s.setFg (actSteps (ctEntryActs r b) ++ .ctPollSof :: waiting)) := by
    rw [ctProg_append]
    exact .of_micro hc rfl (if_neg (Nat.not_lt.mpr hcap)) hc
  have hentry := hcheck.trans (.straight (rest := .ctPollSof :: waiting) (ctEntryActs r b) hc)
  have hraise : micro .ctPollSof ((acts (ctEntryActs r b) s).setFg waiting) =
      .ran (((acts (ctEntryActs r b) s).setSt Status.timeout).setFg (.ctExit :: rest)) := by
    have hev : (acts (ctEntryActs r b) s).flags.evtSof = false := by simp [ctEntryActs, acts, act]
    have hem : (acts (ctEntryActs r b) s).flags.emerg = true := by simpa [ctEntryActs, acts, act] using hemerg
    simp only [micro, pollSof, State.setFg_flags, hev, hem, Bool.false_eq_true, if_false, if_true]
    rfl
  have hcalm : ((acts (ctEntryActs r b) s).setSt Status.timeout).calm = true := by
    rw [← hc, ← acts_calm (ctEntryActs r b) s]
    rfl
  have hraised := hentry.trans (.of_micro (by simpa using hc) rfl hraise hcalm)
  exact hraised.trans (.ctFail hcalm (show Status.timeout ≠ Status.good by decide))

/-- A transfer whose SETUP packet the device answers with STALL (rule R222). -/
theorem RunsTo.ctStalled {s : State} {r : Setup} {b : CtBuf} {rest : List Micro} {es : List Event} (h : s.CtReady)
    (hcap : r.wLength.toNat ≤ b.capacity s.cfg) (hin : s.inputs = atWait (frame ++ [.stall 0] ++ es)) :
    ∃ v : CtView, RunsTo 42 (s.setFg (ctProg r b ++ rest)) (((s.ctOpenedBy r).ctAt v).ctFailed.setFg rest) ∧
      v.ct = ⟨.setup, 0, 0, b⟩ ∧ v.st = Status.stall ∧ v.events = es := by
  obtain ⟨n, henter⟩ := RunsTo.ctEnter (rest := rest) (es := .stall 0 :: es) h hcap hin
  have hframed : (s.ctEntered r).framed.CtRunning := h.running.of_eq rfl rfl rfl rfl
  let entered : CtView := {
    pipe := s.halPipe Config.pControl, out := [], ct := ⟨.waitSof, 0, 0, b⟩, st := s.st, tmo := n
    fg := ctAnswerSteps rest, events := .stall 0 :: es }
  obtain ⟨fifo, hacts⟩ := acts_ctSetupActs (v := entered) hframed h.on
  have hsend := RunsTo.of_acts (l := ctSetupActs) (rest := ctAnswerSteps rest) (State.ctAt_calm (s.ctEntered r).framed
    { entered with fg := actSteps ctSetupActs ++ ctAnswerSteps rest }) rfl
  rw [State.ctAt_setFg, hacts] at hsend
  let sent : CtView := { entered with
    pipe := { (s.halPipe Config.pControl).reset with token := .setup, fifo := fifo, frozen := false, sent := true }
    out := [] ++ r.actions, ct := ⟨.setup, 0, 0, b⟩, tmo := 0 }
  have hu := h.ctOpenedBy r
  let stalled : CtView := { sent with pipe := { sent.pipe with stall := true }, events := es }
  have hevent : occur (.stall 0) ((s.ctOpenedBy r).ctAt { sent with events := es }) =
      .next ((s.ctOpenedBy r).ctAt stalled) :=
    congrArg _ (State.ctAt_raiseOn hu.sofgen _ _)
  have hpoll := RunsTo.ctPending (v := sent) rfl rfl
    (ctPoll_of_clear hu ⟨h.on, rfl, rfl, rfl, rfl, rfl⟩ rfl rfl) hevent
  have hraise : micro (.ctPoll .setupAck) ((s.ctOpenedBy r).ctAt { stalled with
      fg := halStep (.ackSetup Config.pControl) :: .ctStage :: .ctExit :: rest }) =
      .ran ((s.ctOpenedBy r).ctAt { stalled with st := Status.stall, fg := .ctExit :: rest }) := by
    have hbudget : ¬ CtWaitFor.setupAck.budget (s.ctOpenedBy r).cfg ≤ 0 := Nat.not_le.mpr hu.setupBudget
    have herror : stalled.pipe.error = 0#5 := rfl
    have hstall : stalled.pipe.stall = true := rfl
    have hready : CtWaitFor.setupAck.ready stalled.pipe = false := rfl
    have htmo : stalled.tmo = 0 := rfl
    simp only [micro, ctPoll, State.ctAt_halPipe, State.ctAt_flags, State.ctAt_cfg, State.ctAt_cnt, hu.emerg, hbudget,
      herror, hstall, hready, htmo, decide_false, Bool.and_false, ne_eq, not_true, if_false, if_true, Bool.false_eq_true]
    rfl
  have hraised := ((henter.trans hsend).trans hpoll).trans (.ctMicro rfl hraise)
  have hfail : RunsTo 14 ((s.ctOpenedBy r).ctAt { stalled with st := Status.stall, fg := .ctExit :: rest })
      (((s.ctOpenedBy r).ctAt { stalled with st := Status.stall }).ctFailed.setFg rest) :=
    .ctFail (s := (s.ctOpenedBy r).ctAt { stalled with st := Status.stall }) (State.ctAt_calm ..)
      (show Status.stall ≠ Status.good by decide)
  exact ⟨{ stalled with st := Status.stall }, hraised.trans hfail, rfl, rfl, rfl⟩

end Sys2Proof.Machine
end

section
/-! PROOFS. The family `40_port_fsm.md`, TICK in the states that run control transfers (rule R151, rule R157 to rule R161,
rule R171). -/

namespace Sys2Proof.Machine

/-! ### The requests of TICK -/

/-- What a legal configuration says of the requests TICK makes (rule R8). -/
theorem Config.legal_fetch {c : Config} (h : c.legal = true) :
    8 ≤ c.firstDescLen ∧ c.firstDescLen ≤ 0xFFFF ∧ c.firstDescLen ≤ c.sizeofDataStage ∧
      18 ≤ c.sizeofDataStage := by
  simp only [Config.legal, Bool.and_eq_true, decide_eq_true_eq] at h
  omega

theorem firstFetch_wLength {c : Config} (h : c.legal = true) : (firstFetch c).wLength.toNat = c.firstDescLen := by
  obtain ⟨-, hlt, -, -⟩ := Config.legal_fetch h
  exact Nat.mod_eq_of_lt (by omega)

theorem firstFetch_dirIn (c : Config) : (firstFetch c).dirIn = true := by
  simp only [Setup.dirIn, firstFetch, reqGetDescriptorDevice]
  decide

/-- The configuration fetch of rule R161. -/
def configFetch (c : Config) : Setup :=
  reqGetDescriptorConfiguration 0#8 (BitVec.ofNat 16 (min c.sizeofDataStage 0xFFFF))

theorem configFetch_wLength (c : Config) : (configFetch c).wLength.toNat = min c.sizeofDataStage 0xFFFF :=
  Nat.mod_eq_of_lt (by omega)

/-! ### Emergencies (rule R151, rule R171) -/

/-- An emergency ends the TICK (rule R151). -/
theorem RunsTo.retOnEmergency {s : State} {rest : List Micro} (hc : s.calm = true) (h : s.flags.emerg = true) :
    RunsTo 1 (s.setFg (.retIfEmerg :: rest)) (s.setFg []) := by
  refine .of_micro hc rfl ?_ hc
  simp only [micro, State.setFg_flags, h, if_true]
  rfl

/-- A TICK that begins with a transfer into `CACHE` ends there on an emergency. -/
theorem exec_tick_of_emergency {s : State} {r : Setup} {rest : List Micro} (hq : Quiet s) (hemerg : s.flags.emerg = true)
    (hprog : tickProg s.cfg s.ds = ctProg r .cache ++ .retIfEmerg :: rest)
    (hcap : r.wLength.toNat ≤ s.cfg.sizeofDataStage) :
    exec .tick s = .next (((acts (ctEntryActs r .cache) s).setSt Status.timeout).ctFailed.setFg []) := by
  obtain ⟨hfg, hin, -⟩ := hq
  have hfail := RunsTo.ctEmergency (b := .cache) (rest := .retIfEmerg :: rest) (State.calm_nil hin) hemerg hcap
  rw [← hprog] at hfail
  refine (hfail.trans (.retOnEmergency ?_ ?_)).exec_tick hfg rfl (by decide) rfl
  · exact State.calm_nil (by simp [hin])
  · simp [ctEntryActs, acts, act, hemerg]

/-- Settles O25: the first transfer of the TICK fails at its first wait, and the TICK returns. -/
theorem tickEndsOnEmergency : Obligations.TickEndsOnEmergency := by
  intro s hq hlegal hemerg hds
  obtain ⟨-, -, hfirst, hdevice⟩ := Config.legal_fetch hlegal
  obtain ⟨r, rest, hprog, hcap⟩ : ∃ (r : Setup) (rest : List Micro),
      tickProg s.cfg s.ds = ctProg r .cache ++ .retIfEmerg :: rest ∧ r.wLength.toNat ≤ s.cfg.sizeofDataStage := by
    rcases hds with hds | hds | hds <;> rw [hds]
    · exact ⟨firstFetch s.cfg, _, rfl, (firstFetch_wLength hlegal).trans_le hfirst⟩
    · exact ⟨_, _, rfl, hdevice⟩
    · exact ⟨configFetch s.cfg, _, rfl, (configFetch_wLength s.cfg).trans_le (Nat.min_le_left _ _)⟩
  refine ⟨_, exec_tick_of_emergency hq hemerg hprog hcap, rfl, ?_⟩
  simp [ctEntryActs, acts, act, SameMemory, State.cacheByte, State.hostByte]

/-! ### TICK in `Default`, the first fetch answered with STALL (rule R158) -/

/-- A choice that goes on with straight-line micro-steps. -/
theorem RunsTo.choice {s : State} {m : Micro} {rest : List Micro} (l : List Act) (hc : s.calm = true)
    (hm : micro m (s.setFg rest) = thenDo (actSteps l) (s.setFg rest)) :
    RunsTo (l.length + 1) (s.setFg (m :: rest)) ((acts l s).setFg rest) :=
  .onlyIf true l hc hm

/-- What a failed first fetch goes on with, its error counted (rule R158). -/
def retryActs (s : State) : List Act :=
  if s.cfg.maxErrorCount ≤ s.cnt.errcnt then [.advance .error] else [.setRearm true, .advance .attached]

/-- After a first fetch that failed: the error is counted and the state chosen (rule R158). -/
theorem RunsTo.retry {s : State} (hc : s.calm = true) (hst : s.st ≠ Status.good) :
    RunsTo 5 (s.setFg [.defaultFetched]) ((acts (retryActs (act .incErrcnt s)) (act .incErrcnt s)).setFg []) := by
  have hfetched : RunsTo 1 (s.setFg [.defaultFetched]) (s.setFg [.act .incErrcnt, .defaultRetry]) :=
    .of_micro hc rfl (if_pos hst) hc
  have hcounted := hfetched.trans (.straight (rest := [.defaultRetry]) [.incErrcnt] hc)
  have hretry := hcounted.trans (.choice (retryActs (act .incErrcnt s)) (by simpa using hc) (by
    unfold retryActs
    split
    next hmax => exact if_pos hmax
    next hmax => exact if_neg hmax))
  refine hretry.mono ?_
  unfold retryActs
  split <;> decide

section
variable (u : State) (v : CtView)

@[simp] theorem State.ctAt_ds : (u.ctAt v).ds = u.ds := rfl
@[simp] theorem State.ctAt_cacheLen : (u.ctAt v).cacheLen = u.cacheLen := rfl
@[simp] theorem State.ctAt_cache : (u.ctAt v).cache = u.cache := rfl
@[simp] theorem State.ctAt_hbuf : (u.ctAt v).hbuf = u.hbuf := rfl

end

/-- What a transfer's SETUP phase leaves of the rest of the state. -/
theorem State.ctOpenedBy_eq (r : Setup) (s : State) : ∃ (hal : Hal) (pipes : List Pipe), s.ctOpenedBy r = { s with
    sr := r, en := { s.en with sofieSaveFg := s.en.sofie, sofie := true }, flags := { s.flags with evtSof := true }
    jobs := countJobs s.jobs, hal := hal, pipes := pipes } :=
  ⟨_, _, rfl⟩

/-- Settles O21: the first fetch fails on the STALL and the error decides. -/
theorem firstFetchRetry : Obligations.FirstFetchRetry := by
  intro s hready hlegal hds hin
  obtain ⟨hfg, hemerg, -⟩ := id hready
  obtain ⟨-, -, hcap, -⟩ := Config.legal_fetch hlegal
  obtain ⟨v, hstalled, hct, hst, hes⟩ := RunsTo.ctStalled (r := firstFetch s.cfg) (b := .cache) (es := [])
    (rest := [.retIfEmerg, .defaultFetched]) hready.ctReady ((firstFetch_wLength hlegal).trans_le hcap) hin
  obtain ⟨hal, pipes, hopened⟩ := s.ctOpenedBy_eq (firstFetch s.cfg)
  rw [hopened] at hstalled
  generalize hfailed : State.ctFailed _ = failed at hstalled
  obtain ⟨hcalm, hem, hst'⟩ : failed.calm = true ∧ failed.flags.emerg = false ∧ failed.st = Status.stall := by
    subst hfailed
    exact ⟨State.calm_nil (by simp [hes, atWait]), by simpa using hemerg, by simp [hst]⟩
  have hret := (hstalled.trans (.retIfEmerg hcalm hem)).trans (.retry hcalm (by rw [hst']; decide))
  refine ⟨_, hret.exec_tick hfg hds (by decide) rfl, rfl, ?_⟩
  subst hfailed
  by_cases hmax : s.cfg.maxErrorCount ≤ s.cnt.errcnt + 1
  · simp [retryActs, acts, act, hmax, hct, hemerg, firstFetch_dirIn, SameMemory, State.cacheByte, State.hostByte]
  · simp [retryActs, acts, act, hmax, hct, hemerg, firstFetch_dirIn, SameMemory, State.cacheByte, State.hostByte]

end Sys2Proof.Machine
end

section
/-! PROOFS. The family `40_port_fsm.md`, TICK in `Addressed` and in `Default` (rule R157, rule R160). -/

namespace Sys2Proof.Machine

/-! ### What a fetch leaves for the rest of the TICK -/

section
variable (r : Setup) (d : CtDone) (s : State)

@[simp] theorem State.afterTransfer_cfg : (s.afterTransfer r d).cfg = s.cfg := rfl
@[simp] theorem State.afterTransfer_ds : (s.afterTransfer r d).ds = s.ds := rfl
@[simp] theorem State.afterTransfer_flags : (s.afterTransfer r d).flags = { s.flags with evtSof := true } := rfl
@[simp] theorem State.afterTransfer_ident : (s.afterTransfer r d).ident = s.ident := rfl
@[simp] theorem State.afterTransfer_st : (s.afterTransfer r d).st = Status.good := rfl
@[simp] theorem State.afterTransfer_cacheLen : (s.afterTransfer r d).cacheLen = d.cacheLen := rfl
@[simp] theorem State.afterTransfer_sofie : (s.afterTransfer r d).en.sofie = s.en.sofie := rfl
@[simp] theorem State.afterTransfer_hbuf : (s.afterTransfer r d).hbuf = s.hbuf := rfl
@[simp] theorem State.afterTransfer_res : (s.afterTransfer r d).res = s.res := rfl
@[simp] theorem State.afterTransfer_tables : (s.afterTransfer r d).tables = s.tables := rfl
@[simp] theorem State.afterTransfer_errcnt : (s.afterTransfer r d).cnt.errcnt = s.cnt.errcnt := rfl
@[simp] theorem State.afterTransfer_inputs : (s.afterTransfer r d).inputs = atWait d.events := rfl
@[simp] theorem State.afterTransfer_plan : (s.afterTransfer r d).plan = s.plan := rfl

end

/-- Full packets of a positive size are at most as many as their bytes. -/
theorem length_le_length_flatten {α : Type} {full : List (List α)} {m : Nat} (hm : 0 < m)
    (h : ∀ p ∈ full, p.length = m) : full.length ≤ full.flatten.length := by
  induction full with
  | nil => exact Nat.le_refl 0
  | cons p full ih =>
    have hp := h p List.mem_cons_self
    have htail := ih fun q hq => h q (List.mem_cons_of_mem p hq)
    simp only [List.flatten_cons, List.length_append, List.length_cons]
    omega

/-- The micro-steps of an IN data stage of at most `len` bytes. -/
theorem EndsRead.steps_le {mps len cap : Nat} {incomplete : Bool} {full : List (List Byte)} {last : List Byte}
    (h : EndsRead mps len cap incomplete full last) (hmps : 0 < mps) :
    18 * full.length + ((full.flatten ++ last).take len).length ≤ 19 * len := by
  have hfull := length_le_length_flatten hmps h.size
  have hroom := h.room
  have htake := List.length_take_le len (full.flatten ++ last)
  omega

/-- The bytes that a fetch has stored. -/
theorem CtDone.Of.cacheStored {d : CtDone} {r : Setup} {s : State} {got : List Byte} {es : List Event}
    (h : d.Of r (Memory.writeBytes s.cache 0 got) got.length es) (hwf : Memory.wf s.cache = true) :
    CacheStored s (s.afterTransfer r d) got := by
  have hread (k : Nat) : (s.afterTransfer r d).cacheByte k =
      if k < got.length then got.getD k 0#8 else s.cacheByte k := by
    have hcache : (s.afterTransfer r d).cache = Memory.writeBytes s.cache 0 got := h.cache
    rw [State.cacheByte, hcache, Memory.read_writeBytes _ _ _ hwf]
    simp [State.cacheByte]
  exact ⟨fun k hk => by rw [hread, if_pos hk], fun o ho => by rw [hread, if_neg (Nat.not_lt.mpr ho)]⟩

/-! ### TICK in `Addressed` (rule R160) -/

/-- Whether the device is accepted (rule R160). -/
def State.accepted (s : State) : Bool := checkVidPid s || !s.cfg.strictVidPid

/-- What is left of the TICK once the full device descriptor is in `CACHE` (rule R160). -/
def identifyActs (s : State) : List Act := [.critIds, .advance (if s.accepted then .configured else .unsupported)]

theorem RunsTo.identify {s : State} (hc : s.calm = true) (hst : s.st = Status.good) :
    RunsTo 4 (s.setFg [.addressedFetched]) ((acts (identifyActs s) s).setFg []) := by
  have hfetched : RunsTo 1 (s.setFg [.addressedFetched]) (s.setFg [.act .critIds, .addressedMatch]) :=
    .of_micro hc rfl (if_neg (not_not_intro hst)) hc
  have hids := hfetched.trans (.straight (rest := [.addressedMatch]) [.critIds] hc)
  refine hids.trans (.choice [.advance (if s.accepted then .configured else .unsupported)] hc ?_)
  have hsame : (act .critIds s).accepted = s.accepted := rfl
  cases hmatch : s.accepted with
  | true => exact if_pos (hsame.trans hmatch)
  | false => exact if_neg (ne_true_of_eq_false (hsame.trans hmatch))

theorem le16_eq_append (a b : Byte) : le16 a b = b ++ a := by
  refine BitVec.eq_of_getLsbD_eq fun i hi => ?_
  rw [BitVec.getLsbD_append]
  by_cases h : i < 8
  · simp [le16, h, hi]
  · have hhigh : a.getLsbD i = false := BitVec.getLsbD_of_ge a i (Nat.not_lt.mp h)
    simp [le16, h, hi, hhigh]

theorem acts_identify_ident (s : State) : (acts (identifyActs s) s).ident = { s.ident with
    vid := s.cacheByte 9 ++ s.cacheByte 8, pid := s.cacheByte 11 ++ s.cacheByte 10 } := by
  simp [identifyActs, acts, act, le16_eq_append]

theorem acts_identify_ds {s : State} (h : s.flags.emerg = false) : (acts (identifyActs s) s).ds =
    if checkVidPid s = true ∨ s.cfg.strictVidPid = false then .configured else .unsupported := by
  simp [identifyActs, acts, act, h, State.accepted]

/-- Settles O23: the fetch, then the identification of the device. -/
theorem tickAddressedIdentifies : Obligations.TickAddressedIdentifies := by
  intro s full last hready hlegal hwf hds hmps hends hlen hin bytes
  obtain ⟨hfg, hemerg, -⟩ := id hready
  obtain ⟨-, -, -, hcap⟩ := Config.legal_fetch hlegal
  obtain ⟨d, hfetch, hdone⟩ := RunsTo.ctFetch (r := reqGetDescriptorDevice 18#16 false) (es := [])
    (rest := [.retIfEmerg, .addressedFetched]) hready.ctReady (by decide) hcap hends.endsRead (by rw [hin, List.append_nil])
  have hsteps : 18 * full.length + bytes.length ≤ 19 * 18 := hends.endsRead.steps_le (pos_of_legalMps hmps)
  have hstored := hdone.cacheStored hwf
  have hcount : d.cacheLen = 18 := by
    rw [hdone.cacheLen, List.length_take, List.length_append]
    exact Nat.min_eq_left hlen
  have hfuel : 18 * full.length + bytes.length + 66 + 1 + 4 ≤ burst := by
    have hburst : 19 * 18 + 66 + 1 + 4 ≤ burst := by decide
    omega
  let u := s.afterTransfer (reqGetDescriptorDevice 18#16 false) d
  have hcalm : u.calm = true := State.calm_of_atWait rfl
  have hrun := (hfetch.trans (.retIfEmerg hcalm hemerg)).trans (.identify hcalm rfl)
  have hbyte (k : Nat) (hk : k < 18) : u.cacheByte k = bytes.getD k 0#8 :=
    hstored.1 k (by rw [List.length_take, List.length_append]; exact lt_min hk (hk.trans_le hlen))
  have hexec := hrun.exec_tick hfg hds hfuel rfl
  refine ⟨_, hexec, rfl, hstored, hcount, ?_, ?_, rfl, fun _ _ => rfl, rfl⟩
  · rw [← hbyte 8 (by decide), ← hbyte 9 (by decide), ← hbyte 10 (by decide), ← hbyte 11 (by decide)]
    exact acts_identify_ident u
  · exact acts_identify_ds hemerg

end Sys2Proof.Machine
end

section
/-! PROOFS. The family `40_port_fsm.md`, TICK in `Default` when the device answers (rule R157). -/

namespace Sys2Proof.Machine

theorem Issued.trans {s t u : State} {out out' : List Output} (h : Issued s t out) (h' : Issued t u out') :
    Issued s u (out ++ out') := by
  have htrace : t.trace = out.reverse ++ s.trace := h
  rw [Issued, h', htrace, List.reverse_append, List.append_assoc]

theorem State.afterTransfer_issued (r : Setup) (d : CtDone) (s : State) : Issued s (s.afterTransfer r d) (hals d.out) := rfl

theorem State.afterTransfer_pipe (r : Setup) (d : CtDone) (s : State) (p : Nat) :
    (s.afterTransfer r d).pipe p = if p = 0 then { s.pipe 0 with frozen := true } else s.pipe p :=
  State.ctFrozen_twice_pipe s p

/-- Transfers count no frame of a job when none is armed. -/
theorem State.afterTransfer_anyArmed {s : State} (h : s.anyArmed = false) (r : Setup) (d : CtDone) :
    (s.afterTransfer r d).anyArmed = false := by
  have hjobs : countJobs^[d.frames] s.jobs = s.jobs := Function.iterate_fixed (countJobs_of_not_armed h) _
  rw [State.anyArmed, State.afterTransfer, hjobs]
  exact h

/-- The packet size of the device, set after the second reset (rule R157). -/
def mpsActs (m : Nat) : List Act :=
  [.critMps m, .hal (.configurePipe Config.pControl .control false 0#4 m 1 0#8)]

/-- Configuring a pipe of the HAL enables it. -/
theorem State.doHal_configurePipe_hal (p : Nat) (typ : PipeType) (dirIn : Bool) (ep : BitVec 4) (mps banks : Nat)
    (interval : BitVec 8) (s : State) : (s.doHal (.configurePipe p typ dirIn ep mps banks interval)).hal =
      { s.hal with pipes := tableSet HalPipe.disabled s.hal.pipes p { s.halPipe p with on := true } } := rfl

theorem State.doHal_configurePipe_halPipe (p q : Nat) (typ : PipeType) (dirIn : Bool) (ep : BitVec 4) (mps banks : Nat)
    (interval : BitVec 8) (s : State) : (s.doHal (.configurePipe p typ dirIn ep mps banks interval)).halPipe q =
      if q = p then { s.halPipe p with on := true } else s.halPipe q := tableSet_getD ..

/-- A micro-step that goes on with other micro-steps. -/
theorem RunsTo.thenDo {s : State} {m : Micro} {rest : List Micro} (ms : List Micro) (hc : s.calm = true)
    (hm : micro m (s.setFg rest) = Machine.thenDo ms (s.setFg rest)) :
    RunsTo 1 (s.setFg (m :: rest)) (s.setFg (ms ++ rest)) :=
  .of_micro hc rfl hm hc

/-- The last micro-step, which goes on with other micro-steps. -/
theorem RunsTo.goOn {s : State} {m : Micro} (ms : List Micro) (hc : s.calm = true)
    (hm : micro m (s.setFg []) = Machine.thenDo ms (s.setFg [])) : RunsTo 1 (s.setFg [m]) (s.setFg ms) := by
  have h := RunsTo.thenDo ms hc hm
  rwa [List.append_nil] at h

/-- The control pipe can still run transfers with its new packet size. -/
theorem State.CtReady.acts_mps {s : State} (h : s.CtReady) (m : Nat) : (acts (mpsActs m) s).CtReady := by
  obtain ⟨hrun, hon, hsof⟩ := h
  refine ⟨⟨?_, ?_, ?_, ?_, ?_, ?_⟩, ?_, ?_⟩
  · simpa [mpsActs, acts, act] using hrun.emerg
  · simpa [mpsActs, acts, act] using hrun.sofgen
  · simpa [mpsActs, acts, act, State.setPipe_pipe] using hrun.alloc
  · simpa [mpsActs, acts, act] using hrun.setupBudget
  · simpa [mpsActs, acts, act] using hrun.dataBudget
  · simpa [mpsActs, acts, act] using hrun.statusBudget
  · simp [mpsActs, acts, act, State.doHal_configurePipe_halPipe]
  · simpa [mpsActs, acts, act, OnlySof, State.doHal_configurePipe_hal] using hsof

/-- The device's address, accepted by it, is set (rule R157). -/
def addressActs (c : Config) : List Act :=
  [.critDevaddr c.deviceAddress, .hal (.setAddress c.deviceAddress), .advance .addressed]

theorem RunsTo.addressed {s : State} (hc : s.calm = true) (hst : s.st = Status.good) :
    RunsTo 4 (s.setFg [.defaultAddressed]) ((acts (addressActs s.cfg) s).setFg []) := by
  have haccepted : micro .defaultAddressed (s.setFg []) = Machine.thenDo (actSteps (addressActs s.cfg)) (s.setFg []) :=
    if_neg (not_not_intro hst)
  exact .choice (addressActs s.cfg) hc haccepted

/-- The second half of the TICK up to the packet size: the second reset (rule R157). -/
theorem RunsTo.secondReset {s : State} {es : List Event} (harmed : s.anyArmed = false) (hemerg : s.flags.emerg = false)
    (hdisc : s.hal.disc = false) (hst : s.st = Status.good) (hin : s.inputs = atWait (.resetting false :: es)) :
    RunsTo (s.cfg.nPipes + 9) (s.setFg [.retIfEmerg, .defaultFetched]) ((s.busReset es).setFg [.defaultMps]) := by
  have hcalm : s.calm = true := State.calm_of_atWait hin
  have hcalm' : (s.busReset es).calm = true := State.calm_of_atWait rfl
  let resetting := busResetProg s.cfg .second ++ [.retIfEmerg, .recheckDisc, .defaultMps]
  have hfetched : RunsTo 1 (s.setFg [.defaultFetched]) (s.setFg resetting) :=
    .goOn resetting hcalm (if_neg (not_not_intro hst))
  have hreset := (RunsTo.retIfEmerg hcalm hemerg).trans (hfetched.trans (.busReset harmed hemerg hin))
  have hgone := hreset.trans (.retIfEmerg hcalm' hemerg)
  exact (hgone.trans (.recheckDisc hcalm' hdisc)).mono (by omega)

/-- The packet size is set and SET_ADDRESS is accepted: the address is set too (rule R157). -/
theorem RunsTo.setAddress {s : State} (h : s.CtReady) (hmps : mpsUsable s = true)
    (hin : s.inputs = atWait (frame ++ [.setupAck 0, .inPacket 0 []])) :
    let r := reqSetAddress (s.cfg.deviceAddress.setWidth 8)
    let sized := acts (mpsActs (s.cacheByte 7).toNat) s
    ∃ d : CtDone, d.Of r s.cache s.cacheLen [] ∧ RunsTo 62 (s.setFg [.defaultMps])
      ((acts (addressActs s.cfg) (sized.afterTransfer r d)).setFg []) := by
  intro r sized
  have hcalm : s.calm = true := State.calm_of_atWait hin
  have hsized : sized.calm = true := by simpa [sized] using hcalm
  have hready : sized.CtReady := h.acts_mps _
  have hin' : sized.inputs = atWait (frame ++ [.setupAck 0, .inPacket 0 []] ++ []) := by
    simpa [sized, mpsActs, acts, act] using hin
  obtain ⟨hcfg, hcache, hlen⟩ : sized.cfg = s.cfg ∧ sized.cache = s.cache ∧ sized.cacheLen = s.cacheLen := by
    simp [sized, mpsActs, acts, act]
  let set := ctProg r .cache ++ [.retIfEmerg, .defaultAddressed]
  have hmicro : RunsTo 1 (s.setFg [.defaultMps]) (s.setFg (actSteps (mpsActs (s.cacheByte 7).toNat) ++ set)) := by
    simpa [set, setAddressProg, mpsActs, r] using
      RunsTo.goOn (m := .defaultMps) (setAddressProg s.cfg (s.cacheByte 7).toNat) hcalm (if_pos hmps)
  have hsize := hmicro.trans (.straight (rest := set) _ hcalm)
  have hout : r.dirIn = false := by simp [r, Setup.dirIn, reqSetAddress]
  obtain ⟨d, hset, hdone⟩ := RunsTo.ctSet (r := r) (rest := [.retIfEmerg, .defaultAddressed]) hready hout rfl hin'
  let after := sized.afterTransfer r d
  have hafter : after.calm = true := State.calm_of_atWait rfl
  have haddress := RunsTo.addressed hafter rfl
  rw [show after.cfg = s.cfg from hcfg] at haddress
  refine ⟨d, by rw [← hcache, ← hlen]; exact hdone, ?_⟩
  exact (((hsize.trans hset).trans (.retIfEmerg hafter hready.running.emerg)).trans haddress).mono (by simp [mpsActs])

/-! ### What the TICK leaves -/

theorem State.CtReady.busReset {s : State} (h : s.CtReady) (es : List Event) : (s.busReset es).CtReady :=
  ⟨h.running.of_eq rfl rfl rfl rfl, h.on, h.onlySof⟩

/-- The state after the second half of the TICK, from the second reset on (rule R157). -/
def State.addressedBy (es : List Event) (m : Nat) (r : Setup) (d : CtDone) (s : State) : State :=
  (acts (addressActs s.cfg) ((acts (mpsActs m) (s.busReset es)).afterTransfer r d)).setFg []

section
variable (es : List Event) (m : Nat) (r : Setup) (d : CtDone) (s : State)

theorem State.addressedBy_ident : (s.addressedBy es m r d).ident =
    { s.ident with devaddr := s.cfg.deviceAddress, ctrlMps := m } := by
  simp [State.addressedBy, addressActs, mpsActs, acts, act, State.busReset]

theorem State.addressedBy_ds (h : s.flags.emerg = false) : (s.addressedBy es m r d).ds = .addressed := by
  simp [State.addressedBy, addressActs, mpsActs, acts, act, State.busReset, h]

theorem State.addressedBy_mps : ((s.addressedBy es m r d).pipe 0).mps = m := by
  simp [State.addressedBy, addressActs, mpsActs, acts, act, State.afterTransfer_pipe, State.setPipe_pipe, Config.pControl]

theorem State.addressedBy_errcnt : (s.addressedBy es m r d).cnt.errcnt = s.cnt.errcnt := by
  simp [State.addressedBy, addressActs, mpsActs, acts, act, State.busReset]

theorem State.addressedBy_cacheLen : (s.addressedBy es m r d).cacheLen = d.cacheLen := by
  simp [State.addressedBy, addressActs, mpsActs, acts, act, State.busReset]

theorem State.addressedBy_cache : (s.addressedBy es m r d).cache = d.cache := by
  simp [State.addressedBy, addressActs, mpsActs, acts, act, State.afterTransfer]

theorem State.addressedBy_sofie : (s.addressedBy es m r d).en.sofie = s.en.sofie := by
  simp [State.addressedBy, addressActs, mpsActs, acts, act, State.busReset]

theorem State.addressedBy_hbuf : (s.addressedBy es m r d).hbuf = s.hbuf := by
  simp [State.addressedBy, addressActs, mpsActs, acts, act, State.busReset]

theorem State.addressedBy_issued : Issued s (s.addressedBy es m r d) (hals ([.assertReset, .setAddress 0#7,
    .configurePipe Config.pControl .control false 0#4 m 1 0#8] ++ d.out ++ [.setAddress s.cfg.deviceAddress])) := by
  simp [Issued, State.addressedBy, addressActs, mpsActs, acts, act, State.busReset, State.afterTransfer, hals]

end

/-! ### The two SETUP packets -/

theorem Config.nPipes_le {c : Config} (h : c.legal = true) : c.nPipes ≤ 255 := by
  simp only [Config.legal, Bool.and_eq_true, decide_eq_true_eq] at h
  omega

theorem fifoBytes_append (p : Nat) (out out' : List Output) :
    fifoBytes p (out ++ out') = fifoBytes p out ++ fifoBytes p out' := by
  simp [fifoBytes]

theorem Setup.map_byte (r : Setup) : (List.range 8).map r.byte =
    [r.bmRequestType, r.bRequest, r.wValue.extractLsb' 0 8, r.wValue.extractLsb' 8 8, r.wIndex.extractLsb' 0 8,
      r.wIndex.extractLsb' 8 8, r.wLength.extractLsb' 0 8, r.wLength.extractLsb' 8 8] := r.wire_bytes

theorem firstFetch_bytes (c : Config) : (List.range 8).map (firstFetch c).byte =
    [0x80#8, 0x06#8, 0x00#8, 0x01#8, 0#8, 0#8, BitVec.ofNat 8 c.firstDescLen, BitVec.ofNat 8 (c.firstDescLen / 256)] := by
  have hlow : (BitVec.ofNat 16 c.firstDescLen).extractLsb' 0 8 = BitVec.ofNat 8 c.firstDescLen := by
    apply BitVec.eq_of_toNat_eq
    simp
  have hhigh : (BitVec.ofNat 16 c.firstDescLen).extractLsb' 8 8 = BitVec.ofNat 8 (c.firstDescLen / 256) := by
    apply BitVec.eq_of_toNat_eq
    simp [Nat.shiftRight_eq_div_pow]
    omega
  rw [Setup.map_byte, firstFetch, reqGetDescriptorDevice, hlow, hhigh]
  simp

/-- The SETUP packet of a request without a data stage whose `wValue` is a byte (rule R133, rule R134). -/
theorem byteRequest_bytes (rq v : Byte) :
    (List.range 8).map (Setup.byte ⟨0x00#8, rq, v.setWidth 16, 0#16, 0#16, false⟩) = [0x00#8, rq, v, 0#8, 0#8, 0#8, 0#8, 0#8] := by
  have hlow : (v.setWidth 16).extractLsb' 0 8 = v := by
    rw [setWidth_byte]
    exact BitVec.extractLsb'_append_eq_right
  have hhigh : (v.setWidth 16).extractLsb' 8 8 = 0#8 := by
    rw [setWidth_byte]
    exact BitVec.extractLsb'_append_eq_left
  rw [Setup.map_byte, hlow, hhigh]
  simp

theorem CacheStored.getD_eq {s t : State} {bytes : List Byte} {n k : Nat} (h : CacheStored s t (bytes.take n))
    (hn : k < n) (hk : k < bytes.length) : t.cacheByte k = bytes.getD k 0#8 := by
  rw [h.1 k (by rw [List.length_take]; exact lt_min hn hk)]
  simp [List.getElem?_take_of_lt hn]

/-- Settles O22: the fetch, the second reset, the packet size and SET_ADDRESS. -/
theorem tickDefaultAddresses : Obligations.TickDefaultAddresses := by
  intro s bytes hready hplan hlegal hwf hds harmed hlen hfit hmps hin
  obtain ⟨hfg, hemerg, -, -, ⟨-, hdisc, -, -⟩, -⟩ := id hready
  obtain ⟨hmin, hmax, hcap, -⟩ := Config.legal_fetch hlegal
  have hlength := firstFetch_wLength hlegal
  have hends : EndsRead s.ident.ctrlMps (firstFetch s.cfg).wLength.toNat (s.cfg.cap 0)
      (firstFetch s.cfg).incompleteRead [] bytes :=
    ⟨by simp, by simp [hlength]; omega, .inr (.inl rfl), by simpa using hfit, .inl rfl⟩
  let es := frame ++ [Event.setupAck 0, .inPacket 0 []]
  obtain ⟨d, hfetch, hdone⟩ := RunsTo.ctFetch (es := .resetting false :: es) (rest := [.retIfEmerg, .defaultFetched])
    hready.ctReady (firstFetch_dirIn _) (by rw [hlength]; exact hcap) hends (by rw [hin]; simp [es, arrivals, frame])
  simp only [List.flatten_nil, List.nil_append, hlength, List.length_nil] at hfetch hdone
  have hstored := hdone.cacheStored hwf
  let u := s.afterTransfer (firstFetch s.cfg) d
  have hu : u.CtReady := hready.ctReady.afterTransfer _ hdone.on
  have hreset := RunsTo.secondReset (State.afterTransfer_anyArmed harmed (firstFetch s.cfg) d) hemerg hdisc rfl
    (congrArg atWait hdone.events)
  have hbyte : (u.busReset es).cacheByte 7 = bytes.getD 7 0#8 := hstored.getD_eq (by omega) (by omega)
  have hcount : d.cacheLen = min bytes.length s.cfg.firstDescLen := by
    rw [hdone.cacheLen, List.length_take, Nat.min_comm]
  have husable : mpsUsable (u.busReset es) = true := by
    have hfetched : 8 ≤ (u.busReset es).cacheLen := (le_min hlen hmin).trans hcount.ge
    simp only [mpsUsable, hbyte, hmps, hfetched, decide_true, Bool.and_self]
  obtain ⟨e, heDone, haddress⟩ := RunsTo.setAddress (hu.busReset es) husable rfl
  rw [hbyte] at haddress
  have hrun := (hfetch.trans hreset).trans haddress
  have hfuel : 18 * 0 + (bytes.take s.cfg.firstDescLen).length + 66 + (s.cfg.nPipes + 9) + 62 ≤ burst := by
    have htake := List.length_take_le s.cfg.firstDescLen bytes
    have hpipes := Config.nPipes_le hlegal
    have hburst : 0xFFFF + 66 + (255 + 9) + 62 ≤ burst := by decide
    omega
  let r := reqSetAddress (s.cfg.deviceAddress.setWidth 8)
  let t := u.addressedBy es (bytes.getD 7 0#8).toNat r e
  have hexec : exec .tick s = .next t := hrun.exec_tick hfg hds hfuel rfl
  have hcache : t.cache = d.cache := (State.addressedBy_cache ..).trans heDone.cache
  have hissued := (State.afterTransfer_issued (firstFetch s.cfg) d s).trans
    (State.addressedBy_issued es (bytes.getD 7 0#8).toNat r e u)
  refine ⟨t, _, hexec, rfl, State.addressedBy_ds es _ r e u hemerg, State.addressedBy_ident es _ r e u,
    State.addressedBy_mps es _ r e u, State.addressedBy_errcnt es _ r e u, ?_, ?_, hissued, ?_,
    State.addressedBy_sofie es _ r e u, ?_⟩
  · exact (State.addressedBy_cacheLen es _ r e u).trans (heDone.cacheLen.trans hcount)
  · have hsame (k : Nat) : t.cacheByte k = u.cacheByte k := congrArg (Memory.read · k) hcache
    exact ⟨fun k hk => (hsame k).trans (hstored.1 k hk), fun o ho => (hsame o).trans (hstored.2 o ho)⟩
  · have hvalue : s.cfg.deviceAddress.setWidth 8 = (0#1 ++ s.cfg.deviceAddress : Byte) :=
      BitVec.setWidth_eq_append (by decide)
    have hreset : fifoBytes 0 (hals [.assertReset, .setAddress 0#7,
      .configurePipe Config.pControl .control false 0#4 (bytes.getD 7 0#8).toNat 1 0#8]) = [] := rfl
    have hset : fifoBytes 0 (hals [.setAddress u.cfg.deviceAddress]) = [] := rfl
    rw [fifoBytes_append, fifoBytes_hals_append, fifoBytes_hals_append, hreset, hset, hdone.out, heDone.out,
      firstFetch_bytes, List.nil_append, List.append_nil]
    exact congrArg _ ((byteRequest_bytes 0x05#8 (s.cfg.deviceAddress.setWidth 8)).trans (by rw [hvalue]))
  · have hhbuf : t.hbuf = u.hbuf := State.addressedBy_hbuf es _ r e u
    intro b o
    exact congrArg (Memory.read · _) hhbuf

end Sys2Proof.Machine
end

section
/-! PROOFS. The family `40_port_fsm.md`, TICK in `Configured` (rule R161): the record walk, run to its end. -/

namespace Sys2Proof.Machine

/-! ### What the record walk leaves unchanged -/

/-- The state without what the record walk changes: the parser's registers, the tables and the outputs. -/
def State.outside (s : State) : State :=
  { s with
    nsi := 0, si := [], parse := ⟨0, none, 0⟩, pipes := [], hal := { s.hal with pipes := [] }, trace := [], fg := [] }

/-- The record walk has come from `s` to `t`: it has left everything outside the tables and the control pipe alone, and has
written nothing to the control pipe's FIFO. -/
structure State.Kept (s t : State) : Prop where
  outside : t.outside = s.outside
  pipe : t.pipe 0 = s.pipe 0
  halPipe : t.halPipe 0 = s.halPipe 0
  out : ∃ out, Issued s t out ∧ fifoBytes 0 out = []

/-- As `State.Kept`, within one record: its offset and the number of interfaces are unchanged too. -/
structure State.KeptTurn (s t : State) : Prop extends State.Kept s t where
  off : t.parse.off = s.parse.off
  nsi : t.nsi = s.nsi

theorem State.Kept.refl (s : State) : s.Kept s := ⟨rfl, rfl, rfl, [], rfl, rfl⟩

theorem State.Kept.trans {s t u : State} (h : s.Kept t) (h' : t.Kept u) : s.Kept u := by
  obtain ⟨hout, hpipe, hhal, out, hissued, hnone⟩ := h
  obtain ⟨hout', hpipe', hhal', out', hissued', hnone'⟩ := h'
  refine ⟨hout'.trans hout, hpipe'.trans hpipe, hhal'.trans hhal, out ++ out', hissued.trans hissued', ?_⟩
  rw [fifoBytes_append, hnone, hnone', List.append_nil]

theorem State.KeptTurn.refl (s : State) : s.KeptTurn s := ⟨.refl s, rfl, rfl⟩

theorem State.KeptTurn.trans {s t u : State} (h : s.KeptTurn t) (h' : t.KeptTurn u) : s.KeptTurn u :=
  ⟨h.toKept.trans h'.toKept, h'.off.trans h.off, h'.nsi.trans h.nsi⟩

section
variable {s t : State} (h : s.Kept t)
include h

theorem State.Kept.cfg : t.cfg = s.cfg :=
  (congrArg State.cfg h.outside :)
theorem State.Kept.plan : t.plan = s.plan :=
  (congrArg State.plan h.outside :)
theorem State.Kept.inputs : t.inputs = s.inputs :=
  (congrArg State.inputs h.outside :)
theorem State.Kept.flags : t.flags = s.flags :=
  (congrArg State.flags h.outside :)
theorem State.Kept.en : t.en = s.en :=
  (congrArg State.en h.outside :)
theorem State.Kept.ident : t.ident = s.ident :=
  (congrArg State.ident h.outside :)
theorem State.Kept.cache : t.cache = s.cache :=
  (congrArg State.cache h.outside :)
theorem State.Kept.cacheLen : t.cacheLen = s.cacheLen :=
  (congrArg State.cacheLen h.outside :)
theorem State.Kept.hbuf : t.hbuf = s.hbuf :=
  (congrArg State.hbuf h.outside :)

theorem State.Kept.calm : t.calm = s.calm := by rw [State.calm, State.calm, h.inputs]

theorem State.Kept.ctReady (hs : s.CtReady) : t.CtReady := by
  obtain ⟨⟨hemerg, hgen, halloc, hsetup, hdata, hstatus⟩, hon, hvbus, hdisc, hrole, hwake⟩ := hs
  have hhal : t.outside.hal = s.outside.hal := congrArg State.hal h.outside
  refine ⟨⟨h.flags ▸ hemerg, h.en ▸ hgen, ?_, h.cfg ▸ hsetup, h.cfg ▸ hdata, h.cfg ▸ hstatus⟩, ?_, ?_, ?_, ?_, ?_⟩
  · exact (congrArg Pipe.alloc h.pipe).trans halloc
  · exact (congrArg HalPipe.on h.halPipe).trans hon
  · exact (congrArg Hal.vbusError hhal :).trans hvbus
  · exact (congrArg Hal.disc hhal :).trans hdisc
  · exact (congrArg Hal.roleChange hhal :).trans hrole
  · exact (congrArg Hal.wakeup hhal :).trans hwake

end

/-! ### Register micro-steps of the record walk -/

/-- The register micro-steps within one record: none of them touches the control pipe. -/
def Act.ofRecord (a : Act) : Bool :=
  match a with
  | .setPendEp _ => true
  | .decPendEp => true
  | .setCurSi _ => true
  | .setSi _ _ => true
  | .setAlloc p _ => decide (p ≠ 0)
  | .setFrozen p _ => decide (p ≠ 0)
  | .critSetPipe p _ => decide (p ≠ 0)
  | .hal (.configurePipe p _ _ _ _ _ _) => decide (p ≠ 0)
  | .hal (.disablePipe p) => decide (p ≠ 0)
  | _ => false

theorem State.KeptTurn.setPipe {p : Nat} (hp : p ≠ 0) (r : Pipe) (s : State) : s.KeptTurn (s.setPipe p r) :=
  ⟨⟨rfl, by rw [State.setPipe_pipe, if_neg hp.symm], rfl, [], rfl, rfl⟩, rfl, rfl⟩

theorem State.KeptTurn.act {a : Act} (ha : a.ofRecord = true) (s : State) : s.KeptTurn (act a s) := by
  cases a with
  | setPendEp _ => exact ⟨⟨rfl, rfl, rfl, [], rfl, rfl⟩, rfl, rfl⟩
  | decPendEp => exact ⟨⟨rfl, rfl, rfl, [], rfl, rfl⟩, rfl, rfl⟩
  | setCurSi _ => exact ⟨⟨rfl, rfl, rfl, [], rfl, rfl⟩, rfl, rfl⟩
  | setSi _ _ => exact ⟨⟨rfl, rfl, rfl, [], rfl, rfl⟩, rfl, rfl⟩
  | setAlloc p _ => exact .setPipe (of_decide_eq_true ha) _ s
  | setFrozen p _ => exact .setPipe (of_decide_eq_true ha) _ s
  | critSetPipe p r => exact .setPipe (of_decide_eq_true ha) r s
  | hal a =>
    cases a with
    | configurePipe p =>
      have hp : p ≠ 0 := of_decide_eq_true ha
      exact ⟨⟨rfl, rfl, (tableSet_getD ..).trans (if_neg hp.symm), [_], rfl, rfl⟩, rfl, rfl⟩
    | disablePipe p =>
      have hp : p ≠ 0 := of_decide_eq_true ha
      exact ⟨⟨rfl, rfl, (tableSet_getD ..).trans (if_neg hp.symm), [_], rfl, rfl⟩, rfl, rfl⟩
    | _ => cases ha
  | _ => cases ha

theorem State.KeptTurn.acts {l : List Act} (hl : ∀ a ∈ l, a.ofRecord = true) (s : State) : s.KeptTurn (acts l s) := by
  induction l generalizing s with
  | nil => exact .refl s
  | cons a l ih =>
    have hfirst := State.KeptTurn.act (hl a List.mem_cons_self) s
    exact hfirst.trans (ih (fun b hb => hl b (List.mem_cons_of_mem a hb)) _)

theorem State.KeptTurn.guarded {l : List Act} (hl : ∀ a ∈ l, a.ofRecord = true) (b : Bool) (s : State) :
    s.KeptTurn (s.guarded b l) := by
  cases b
  · exact .refl s
  · exact .acts hl s

/-! ### Micro-steps within one record -/

/-- What the record walk needs to go on: no input comes between micro-steps, the application answers no hook. -/
structure State.Walking (s : State) : Prop where
  calm : s.calm = true
  legal : s.cfg.legal = true
  plan : s.plan = []

theorem State.Kept.walking {s t : State} (h : s.Kept t) (hs : s.Walking) : t.Walking :=
  ⟨h.calm.trans hs.calm, h.cfg ▸ hs.legal, h.plan.trans hs.plan⟩

/-- These micro-steps stay within one record. -/
def StaysInRecord (k : Nat) (ms : List Micro) : Prop :=
  ∀ (s : State) (rest : List Micro), s.Walking →
    ∃ t, s.KeptTurn t ∧ RunsTo k (s.setFg (ms ++ rest)) (t.setFg rest)

/-- A micro-step that does nothing. -/
theorem RunsTo.skip {s : State} {m : Micro} {rest : List Micro} {k : Nat} (hc : s.calm = true) (hk : 1 ≤ k)
    (hm : micro m (s.setFg rest) = .ran (s.setFg rest)) : RunsTo k (s.setFg (m :: rest)) (s.setFg rest) :=
  (RunsTo.of_micro (s := s.setFg (m :: rest)) hc rfl hm hc).mono hk

theorem StaysInRecord.append {k j : Nat} {ms ms' : List Micro} (h : StaysInRecord k ms) (h' : StaysInRecord j ms') :
    StaysInRecord (k + j) (ms ++ ms') := by
  intro s rest hs
  obtain ⟨t, hkept, hrun⟩ := h s (ms' ++ rest) hs
  obtain ⟨u, hkept', hrun'⟩ := h' t rest (hkept.toKept.walking hs)
  exact ⟨u, hkept.trans hkept', by rw [List.append_assoc]; exact hrun.trans hrun'⟩

theorem StaysInRecord.acts {l : List Act} (hl : ∀ a ∈ l, a.ofRecord = true) : StaysInRecord l.length (actSteps l) :=
  fun s _ hs => ⟨_, .acts hl s, .straight l hs.calm⟩

theorem StaysInRecord.act {a : Act} (ha : a.ofRecord = true) : StaysInRecord 1 [.act a] :=
  .acts (l := [a]) fun _ hb => List.mem_singleton.mp hb ▸ ha

/-- A test that guards one register micro-step of the record. -/
theorem StaysInRecord.test {m : Micro} (b : State → Bool) (a : State → Act) (ha : ∀ s, (a s).ofRecord = true)
    (hm : ∀ s, micro m s = Machine.onlyIf (b s) [.act (a s)] s) : StaysInRecord 2 [m] := by
  intro s rest hs
  have hact : ∀ x ∈ [a (s.setFg rest)], x.ofRecord = true := fun _ hx => List.mem_singleton.mp hx ▸ ha _
  exact ⟨_, .guarded hact (b (s.setFg rest)) s, .onlyIf _ [a (s.setFg rest)] hs.calm (hm _)⟩

theorem staysInRecord_ifaceEmpty (i : Nat) : StaysInRecord 2 [.ifaceEmpty i] :=
  .test (fun s => decide (s.parse.pendEp = 0)) (fun _ => .setSi i (.configured true)) (fun _ => rfl) fun _ => rfl

theorem staysInRecord_endpointDone (i : Nat) : StaysInRecord 2 [.endpointDone i] :=
  .test (fun s => decide (s.parse.pendEp = 0)) (fun s => .setSi i (.configured (s.iface i).allPiped)) (fun _ => rfl)
    fun _ => rfl

theorem staysInRecord_ifacePending : StaysInRecord 2 [.ifacePending] := by
  intro s rest hs
  cases hcur : s.parse.curSi with
  | none =>
    have hm : micro .ifacePending (s.setFg rest) = .ran (s.setFg rest) := by
      simp [micro, Machine.ifacePending, hcur]
    exact ⟨s, .refl s, .skip hs.calm (by decide) hm⟩
  | some c =>
    have hm : micro .ifacePending (s.setFg rest) =
        Machine.onlyIf (decide (0 < s.parse.pendEp)) (actSteps [.setSi c (.configured false)]) (s.setFg rest) := by
      simp only [micro, Machine.ifacePending, State.setFg_parse, hcur]
      rfl
    exact ⟨_, .guarded (by simp [Act.ofRecord]) _ s, .onlyIf _ _ hs.calm hm⟩

/-- With automatic configuration the entry is set to wait for its endpoints (rule R267). -/
theorem staysInRecord_ifaceAuto (i : Nat) : StaysInRecord 5 [.ifaceAuto i] := by
  intro s rest hs
  cases hauto : s.cfg.autoCfgEndpoint with
  | false =>
    have hm : micro (.ifaceAuto i) (s.setFg rest) = .ran (s.setFg rest) := by
      simp [micro, Machine.ifaceAuto, Machine.onlyIf, hauto]
    exact ⟨s, .refl s, .skip hs.calm (by decide) hm⟩
  | true =>
    have hm : micro (.ifaceAuto i) (s.setFg rest) =
        Machine.thenDo [.act (.setCurSi (some i)), .act (.setPendEp (s.iface i).nbEp), .ifaceEmpty i] (s.setFg rest) := by
      simp only [micro, Machine.ifaceAuto, State.setFg_cfg, hauto]
      rfl
    have hwait := ((StaysInRecord.act (a := .setCurSi (some i)) rfl).append
      (.act (a := .setPendEp (s.iface i).nbEp) rfl)).append (staysInRecord_ifaceEmpty i)
    obtain ⟨t, hkept, hrun⟩ := hwait s rest hs
    exact ⟨t, hkept, ((RunsTo.thenDo _ hs.calm hm).trans hrun)⟩

theorem choosePipe_ne_zero {s : State} {size p : Nat} (hlegal : s.cfg.legal = true) (h : choosePipe s size = some p) :
    p ≠ 0 := by
  suffices hmem : p ∈ s.cfg.dataPipes from Nat.ne_of_gt (Config.mem_dataPipes.mp hmem).1
  unfold choosePipe at h
  split at h
  · split at h
    · cases h
    · cases h
      exact (Config.bigPipe_isLeast_max hlegal).1
  · exact List.mem_of_find?_eq_some h

theorem allocSteps_ofRecord {s : State} (hlegal : s.cfg.legal = true) (i e off : Nat) :
    (allocSteps s i e off).length ≤ 3 ∧ ∀ a ∈ allocSteps s i e off, a.ofRecord = true := by
  unfold allocSteps
  cases h : choosePipe s (recordPipe s off).mps with
  | none => simp [h, Act.ofRecord]
  | some p =>
    have hp := choosePipe_ne_zero hlegal h
    simp [h, Act.ofRecord, hp]

/-- An ENDPOINT record (rule R269). -/
theorem staysInRecord_endpoint (len : Nat) : StaysInRecord 7 [.endpoint len] := by
  intro s rest hs
  have hskip (h : micro (.endpoint len) (s.setFg rest) = .ran (s.setFg rest)) :
      ∃ t, s.KeptTurn t ∧ RunsTo 7 (s.setFg ([.endpoint len] ++ rest)) (t.setFg rest) :=
    ⟨s, .refl s, .skip hs.calm (by decide) h⟩
  cases hcur : s.parse.curSi with
  | none => exact hskip (by simp [micro, Machine.endpoint, hcur])
  | some i =>
    let l := allocSteps s i ((s.iface i).nbEp - s.parse.pendEp) s.parse.off
    have hm : micro (.endpoint len) (s.setFg rest) =
        Machine.onlyIf (s.cfg.autoCfgEndpoint && decide (0 < s.parse.pendEp) && decide (7 ≤ len))
          (actSteps (l ++ [.decPendEp]) ++ [.endpointDone i]) (s.setFg rest) := by
      simp only [micro, Machine.endpoint, State.setFg_parse, hcur]
      rfl
    cases hpend : s.cfg.autoCfgEndpoint && decide (0 < s.parse.pendEp) && decide (7 ≤ len) with
    | false =>
      rw [hpend] at hm
      exact hskip hm
    | true =>
      rw [hpend] at hm
      obtain ⟨hlen, hl⟩ : l.length ≤ 3 ∧ ∀ a ∈ l, a.ofRecord = true := allocSteps_ofRecord hs.legal ..
      have hacts : ∀ a ∈ l ++ [.decPendEp], a.ofRecord = true := by
        intro a ha
        rcases List.mem_append.mp ha with ha | ha
        · exact hl a ha
        · exact List.mem_singleton.mp ha ▸ rfl
      obtain ⟨t, hkept, hrun⟩ := (StaysInRecord.acts hacts).append (staysInRecord_endpointDone i) s rest hs
      refine ⟨t, hkept, ((RunsTo.thenDo _ hs.calm hm).trans hrun).mono ?_⟩
      simp only [List.length_append, List.length_singleton]
      omega

end Sys2Proof.Machine
end

section
/-! PROOFS. The family `40_port_fsm.md`, TICK in `Configured` (rule R161): the records one after another. -/

namespace Sys2Proof.Machine

theorem Config.maxEp_le {c : Config} (h : c.legal = true) : c.maxEp ≤ 255 := by
  simp only [Config.legal, Bool.and_eq_true, decide_eq_true_eq] at h
  omega

/-! ### The end of a record -/

/-- Within `k` micro-steps the record that ends at `next` is over, and with it the walk, or the walk goes on behind it. -/
def State.RecordEnds (total : Nat) (who : ParseFor) (next k : Nat) (ms : List Micro) (s : State) : Prop :=
  ∃ t, s.Kept t ∧ t.nsi ≤ s.cfg.maxInterface ∧ (RunsTo k (s.setFg ms) (t.setFg [.parseEnd who]) ∨
    t.parse.off = next ∧ RunsTo k (s.setFg ms) (t.setFg [.parseWalk total who]))

section
variable {total next k : Nat} {who : ParseFor} {s : State}

/-- Some micro-steps, and then the end of the record. -/
theorem State.RecordEnds.after {u : State} {j : Nat} {ms ms' : List Micro} (h : u.RecordEnds total who next k ms')
    (hkept : s.Kept u) (hrun : RunsTo j (s.setFg ms) (u.setFg ms')) : s.RecordEnds total who next (j + k) ms := by
  obtain ⟨t, hkept', hnsi, hend⟩ := h
  refine ⟨t, hkept.trans hkept', hkept.cfg ▸ hnsi, ?_⟩
  rcases hend with hend | ⟨hoff, hwalk⟩
  · exact .inl (hrun.trans hend)
  · exact .inr ⟨hoff, hrun.trans hwalk⟩

theorem State.RecordEnds.mono {j : Nat} {ms : List Micro} (h : s.RecordEnds total who next j ms) (hk : j ≤ k) :
    s.RecordEnds total who next k ms := by
  obtain ⟨t, hkept, hnsi, hend⟩ := h
  exact ⟨t, hkept, hnsi, hend.imp (·.mono hk) (And.imp_right (·.mono hk))⟩

/-- The walk goes on behind the record (rule R265). -/
theorem State.Walking.recordEnds_move (hs : s.Walking) (hnsi : s.nsi ≤ s.cfg.maxInterface) (len : Nat) :
    s.RecordEnds total who (s.parse.off + len) 1 [.act (.moveParseOff len), .parseWalk total who] := by
  refine ⟨act (.moveParseOff len) s, ⟨rfl, rfl, rfl, [], rfl, rfl⟩, hnsi, .inr ⟨rfl, ?_⟩⟩
  exact .straight (rest := [.parseWalk total who]) [.moveParseOff len] hs.calm

theorem ifaceActs_eq (s : State) (i off : Nat) : ∃ l : List Act, ifaceActs s i off = l ++ [.critNsiInc] ∧
    l.length = s.cfg.maxEp + 7 ∧ ∀ a ∈ l, a.ofRecord = true := by
  refine ⟨_, (List.append_assoc _ [Act.setSi i (.configured false)] [Act.critNsiInc]).symm, ?_, ?_⟩
  · simp
  · simp only [List.forall_mem_append, List.forall_mem_map, List.forall_mem_cons, List.not_mem_nil, Act.ofRecord,
      false_implies, implies_true, and_self]

/-- An INTERFACE record that is matched: its entry is written (rule R267). -/
theorem State.Walking.recordEnds_iface (hs : s.Walking) (hnsi : s.nsi < s.cfg.maxInterface) (i off len : Nat) :
    s.RecordEnds total who (s.parse.off + len) 269 (actSteps (ifaceActs s i off) ++
      [.ifaceAuto i, .act (.moveParseOff len), .parseWalk total who]) := by
  obtain ⟨l, hl, hlen, hrecord⟩ := ifaceActs_eq s i off
  let move : List Micro := [.act (.moveParseOff len), .parseWalk total who]
  have hwritten : RunsTo (ifaceActs s i off).length (s.setFg (actSteps (ifaceActs s i off) ++ .ifaceAuto i :: move))
      ((acts (ifaceActs s i off) s).setFg (.ifaceAuto i :: move)) := .straight _ hs.calm
  have hentry := State.KeptTurn.acts hrecord s
  let u := act .critNsiInc (acts l s)
  have hu : acts (ifaceActs s i off) s = u := by rw [hl, acts_append]; rfl
  have hkept : s.Kept u := hentry.toKept.trans ⟨rfl, rfl, rfl, [], rfl, rfl⟩
  have hmaxEp := Config.maxEp_le hs.legal
  rw [hu] at hwritten
  obtain ⟨t, hkept', hauto⟩ := staysInRecord_ifaceAuto i u move (hkept.walking hs)
  have hcount : t.nsi = s.nsi + 1 := hkept'.nsi.trans (congrArg (· + 1) hentry.nsi)
  have hoff : t.parse.off = s.parse.off := hkept'.off.trans hentry.off
  have hall := hkept.trans hkept'.toKept
  have hmove := (hall.walking hs).recordEnds_move (total := total) (who := who) (by rw [hcount, hall.cfg]; exact hnsi) len
  rw [hoff] at hmove
  refine (hmove.after hall (hwritten.trans hauto)).mono ?_
  rw [hl, List.length_append, hlen, List.length_singleton]
  omega

/-- The match of an INTERFACE record (rule R267). -/
theorem State.Walking.recordEnds_ifaceMatch (hs : s.Walking) (hnsi : s.nsi ≤ s.cfg.maxInterface) (len : Nat) :
    s.RecordEnds total who (s.parse.off + len) 270 [.ifaceMatch len total who] := by
  have hgo (ms : List Micro) := RunsTo.goOn (m := .ifaceMatch len total who) ms hs.calm
  by_cases hfull : s.nsi = s.cfg.maxInterface
  · exact ⟨s, .refl s, hnsi, .inl ((hgo _ (if_pos hfull)).mono (by decide))⟩
  by_cases hmatch : 9 ≤ len ∧ classMatch s s.parse.off
  · have hiface := hs.recordEnds_iface (total := total) (who := who) (by omega) s.nsi s.parse.off len
    exact hiface.after (.refl s) (hgo _ ((if_neg hfull).trans (if_pos hmatch)))
  · have hmove := (hs.recordEnds_move (total := total) (who := who) hnsi len).after (.refl s)
      (hgo _ ((if_neg hfull).trans (if_neg hmatch)))
    exact hmove.mono (by decide)

/-- One record, by its type (rule R265). -/
theorem State.Walking.recordEnds_parseRecord (hs : s.Walking) (hnsi : s.nsi ≤ s.cfg.maxInterface) (len typ : Nat) :
    s.RecordEnds total who (s.parse.off + len) 280 [.parseRecord len typ total who] := by
  have hgo (ms : List Micro) := RunsTo.goOn (m := .parseRecord len typ total who) ms hs.calm
  by_cases hiface : typ = 4
  · have hbegin := (staysInRecord_ifacePending.append (.act (a := .setPendEp 0) rfl)).append (.act (a := .setCurSi none) rfl)
    obtain ⟨t, hkept, hrun⟩ := hbegin s [.ifaceMatch len total who] hs
    have hmatch := (hkept.toKept.walking hs).recordEnds_ifaceMatch (total := total) (who := who)
      (by rw [hkept.nsi, hkept.cfg]; exact hnsi) len
    rw [hkept.off] at hmatch
    exact (hmatch.after hkept.toKept ((hgo _ (if_pos hiface)).trans hrun)).mono (by decide)
  by_cases hendpoint : typ = 5
  · obtain ⟨t, hkept, hrun⟩ := staysInRecord_endpoint len s [.act (.moveParseOff len), .parseWalk total who] hs
    have hmove := (hkept.toKept.walking hs).recordEnds_move (total := total) (who := who)
      (by rw [hkept.nsi, hkept.cfg]; exact hnsi) len
    rw [hkept.off] at hmove
    exact (hmove.after hkept.toKept ((hgo _ ((if_neg hiface).trans (if_pos hendpoint))).trans hrun)).mono (by decide)
  · have hmove := (hs.recordEnds_move (total := total) (who := who) hnsi len).after (.refl s)
      (hgo _ ((if_neg hiface).trans (if_neg hendpoint)))
    exact hmove.mono (by decide)

/-- One turn of the walk at a record that fits (rule R265): the hook, then the record. -/
theorem State.Walking.recordEnds_parseWalk (hs : s.Walking) (hnsi : s.nsi ≤ s.cfg.maxInterface)
    (hlen : 2 ≤ (s.cacheByte s.parse.off).toNat) (hfit : s.parse.off + (s.cacheByte s.parse.off).toNat ≤ total) :
    s.RecordEnds total who (s.parse.off + (s.cacheByte s.parse.off).toNat) 282 [.parseWalk total who] := by
  let record : List Micro := [.parseRecord (s.cacheByte s.parse.off).toNat (s.cacheByte (s.parse.off + 1)).toNat total who]
  have hturn : micro (.parseWalk total who) (s.setFg []) = Machine.thenDo (.hook s.parse.off :: record) (s.setFg []) :=
    (if_pos (by simp only [State.setFg_parse]; omega)).trans
      (if_neg (by simp only [State.setFg_parse, State.setFg_cacheByte]; omega))
  have hstart := RunsTo.goOn _ hs.calm hturn
  let u := s.emit (.hook s.parse.off)
  have hkept : s.Kept u := ⟨rfl, rfl, rfl, [_], rfl, rfl⟩
  have hplan : (u.setFg record).plan = [] := hs.plan
  have hhook : RunsTo 1 (s.setFg (.hook s.parse.off :: record)) (u.setFg record) := by
    refine .of_micro hs.calm rfl ?_ hs.calm
    have hnotify : notifyFg (.hook s.parse.off) (s.setFg record) = .ran ((s.setFg record).emit (.hook s.parse.off)) := by
      have hplan : ((s.setFg record).emit (.hook s.parse.off)).plan = [] := hs.plan
      simp only [notifyFg, hplan]
    exact hnotify
  exact ((hkept.walking hs).recordEnds_parseRecord hnsi _ _).after hkept (hstart.trans hhook)

/-- The record walk from here to its end (rule R265): each record is at least two bytes long. -/
theorem State.Walking.walk (hs : s.Walking) (hnsi : s.nsi ≤ s.cfg.maxInterface) : ∃ t, s.Kept t ∧
    t.nsi ≤ s.cfg.maxInterface ∧
    RunsTo (141 * (total - s.parse.off) + 1) (s.setFg [.parseWalk total who]) (t.setFg [.parseEnd who]) := by
  induction hleft : total - s.parse.off using Nat.strong_induction_on generalizing s with
  | _ left ih =>
    have hstop (hm : micro (.parseWalk total who) (s.setFg []) = Machine.thenDo [.parseEnd who] (s.setFg [])) :
        ∃ t, s.Kept t ∧ t.nsi ≤ s.cfg.maxInterface ∧
        RunsTo (141 * left + 1) (s.setFg [.parseWalk total who]) (t.setFg [.parseEnd who]) :=
      ⟨s, .refl s, hnsi, (RunsTo.thenDo [.parseEnd who] hs.calm hm).mono (by omega)⟩
    by_cases hhead : s.parse.off + 2 ≤ total
    swap
    · exact hstop (if_neg hhead)
    by_cases hbad : (s.cacheByte s.parse.off).toNat < 2 ∨ total < s.parse.off + (s.cacheByte s.parse.off).toNat
    · exact hstop ((if_pos hhead).trans (if_pos hbad))
    obtain ⟨hlen, hfit⟩ := not_or.mp hbad
    obtain ⟨t, hkept, hcount, hend | ⟨hoff, hwalk⟩⟩ := hs.recordEnds_parseWalk (total := total) (who := who) hnsi
      (Nat.not_lt.mp hlen) (Nat.not_lt.mp hfit)
    · exact ⟨t, hkept, hcount, hend.mono (by omega)⟩
    · obtain ⟨u, hkept', hcount', hrest⟩ := ih (total - t.parse.off) (by rw [hoff]; omega) (hkept.walking hs)
        (hkept.cfg ▸ hcount) rfl
      refine ⟨u, hkept.trans hkept', hkept.cfg ▸ hcount', (hwalk.trans hrest).mono ?_⟩
      rw [hoff]
      omega

end

/-! ### The whole of CHECK_CLASS -/

theorem staysInRecord_freePipe {p : Nat} (hp : p ≠ 0) : StaysInRecord 4 [.freePipe p] := by
  intro s rest hs
  let freed : List Act := [.hal (.disablePipe p), .setAlloc p false, .setFrozen p true]
  have hfreed : ∀ a ∈ freed, a.ofRecord = true := by simp [freed, Act.ofRecord, hp]
  exact ⟨_, .guarded hfreed (s.pipe p).alloc s, .onlyIf _ freed hs.calm rfl⟩

/-- With automatic configuration the data pipes are freed first (rule R264). -/
theorem staysInRecord_freePipes {l : List Nat} (hl : ∀ p ∈ l, p ≠ 0) :
    StaysInRecord (4 * l.length) (l.map .freePipe) := by
  induction l with
  | nil => exact fun s _ _ => ⟨s, .refl s, .refl _⟩
  | cons p l ih =>
    have hrest := ih fun q hq => hl q (List.mem_cons_of_mem p hq)
    have hall := (staysInRecord_freePipe (hl p List.mem_cons_self)).append hrest
    rwa [List.length_cons, Nat.mul_add_one, Nat.add_comm]

theorem staysInRecord_frees {c : Config} (h : c.legal = true) :
    StaysInRecord 1016 (if c.autoCfgEndpoint then c.dataPipes.map Micro.freePipe else []) := by
  intro s rest hs
  have hlength : 4 * c.dataPipes.length ≤ 1016 := by
    have hpipes := Config.nPipes_le h
    rw [Config.dataPipes, List.length_range']
    omega
  split
  · have hdata : ∀ p ∈ c.dataPipes, p ≠ 0 := fun p hp => Nat.ne_of_gt (Config.mem_dataPipes.mp hp).1
    obtain ⟨t, hkept, hrun⟩ := staysInRecord_freePipes hdata s rest hs
    exact ⟨t, hkept, hrun.mono hlength⟩
  · exact ⟨s, .refl s, (RunsTo.refl _).mono (Nat.zero_le _)⟩

/-- The start of CHECK_CLASS, up to the record walk (rule R264). -/
theorem State.Walking.parseStart {s : State} (hs : s.Walking) (hcap : s.cacheLen ≤ s.cfg.sizeofDataStage) (who : ParseFor) :
    ∃ (t : State) (total : Nat), s.Kept t ∧ t.nsi = 0 ∧ total ≤ 65535 ∧
      RunsTo 1021 (s.setFg (parseProg s.cfg who)) (t.setFg [.parseWalk total who]) := by
  let fresh : List Act := [.setPendEp 0, .setCurSi none, .setParseOff 0]
  let tail := actSteps fresh ++ [.parseTotal who]
  let frees := if s.cfg.autoCfgEndpoint then s.cfg.dataPipes.map Micro.freePipe else []
  have hprog : parseProg s.cfg who = .act .critNsiZero :: (frees ++ tail) := by simp [parseProg, frees, tail, fresh]
  have hzero : RunsTo 1 (s.setFg (.act .critNsiZero :: (frees ++ tail))) ((act .critNsiZero s).setFg (frees ++ tail)) :=
    .straight (rest := frees ++ tail) [.critNsiZero] hs.calm
  have hkeptZero : s.Kept (act .critNsiZero s) := ⟨rfl, rfl, rfl, [], rfl, rfl⟩
  obtain ⟨u, hkeptFrees, hfree⟩ := staysInRecord_frees hs.legal (act .critNsiZero s) tail (hkeptZero.walking hs)
  have hu : s.Kept u := hkeptZero.trans hkeptFrees.toKept
  have hfresh : RunsTo 3 (u.setFg tail) ((acts fresh u).setFg [.parseTotal who]) :=
    .straight (rest := [.parseTotal who]) fresh (hu.walking hs).calm
  let v := acts fresh u
  have hv : s.Kept v := hu.trans ⟨rfl, rfl, rfl, [], rfl, rfl⟩
  let total := min (le16 (v.cacheByte 2) (v.cacheByte 3)).toNat v.cacheLen
  have hbound : total ≤ v.cfg.sizeofDataStage := by
    rw [hv.cfg]
    exact (Nat.min_le_right _ _).trans (hv.cacheLen ▸ hcap)
  have htotal := RunsTo.goOn (m := .parseTotal who) [.parseWalk total who] (hv.walking hs).calm
    (if_neg (Nat.not_lt.mpr hbound))
  refine ⟨v, total, hv, hkeptFrees.nsi, (Nat.min_le_left _ _).trans (Nat.le_of_lt_succ (BitVec.isLt _)), ?_⟩
  rw [hprog]
  exact (hzero.trans hfree).trans (hfresh.trans htotal)

/-- CHECK_CLASS up to its result (rule R264 to rule R271). -/
theorem State.Walking.parse {s : State} (hs : s.Walking) (hcap : s.cacheLen ≤ s.cfg.sizeofDataStage) (who : ParseFor) :
    ∃ t, s.Kept t ∧ t.nsi ≤ s.cfg.maxInterface ∧
      RunsTo (1100 + 141 * 65535) (s.setFg (parseProg s.cfg who)) (t.setFg [.parseReturn who]) := by
  obtain ⟨v, total, hv, hnone, htotal, hstart⟩ := hs.parseStart hcap who
  obtain ⟨w, hkeptWalk, hcount, hwalk⟩ := (hv.walking hs).walk (total := total) (who := who) (hnone ▸ Nat.zero_le _)
  have hw := hv.trans hkeptWalk
  have hreturn := RunsTo.goOn (m := .parseEnd who) [.ifacePending, .parseReturn who] (hw.walking hs).calm rfl
  obtain ⟨t, hkeptEnd, hend⟩ := staysInRecord_ifacePending w [.parseReturn who] (hw.walking hs)
  refine ⟨t, hw.trans hkeptEnd.toKept, ?_, (((hstart.trans hwalk).trans hreturn).trans hend).mono (by omega)⟩
  rw [hkeptEnd.nsi, ← hv.cfg]
  exact hcount

end Sys2Proof.Machine
end

section
/-! PROOFS. The family `40_port_fsm.md`, TICK in `Configured` (rule R161). -/

namespace Sys2Proof.Machine

/-- A fetched configuration goes to CHECK_CLASS (rule R161). -/
theorem RunsTo.configuredFetched {s : State} (hc : s.calm = true) (hst : s.st = Status.good) :
    RunsTo 1 (s.setFg [.configuredFetched]) (s.setFg (parseProg s.cfg (.tick (s.cacheByte 5)))) := by
  have hm : micro .configuredFetched (s.setFg []) = Machine.thenDo (parseProg s.cfg (.tick (s.cacheByte 5))) (s.setFg []) :=
    if_neg (not_not_intro hst)
  exact .goOn _ hc hm

/-- With no supported interface the TICK ends in `Unsupported` (rule R161, rule R271). -/
theorem RunsTo.unsupported {s : State} {cfg : Byte} (hc : s.calm = true) (hnsi : s.nsi = 0) :
    RunsTo 2 (s.setFg [.parseReturn (.tick cfg)]) ((act (.advance .unsupported) s).setFg []) :=
  .choice [.advance .unsupported] hc (if_neg (Nat.not_lt.mpr (Nat.le_of_eq hnsi)))

/-- The device is configured (rule R161). -/
theorem RunsTo.configuredSet {s : State} (hc : s.calm = true) (hst : s.st = Status.good) :
    RunsTo 2 (s.setFg [.configuredSet]) ((act (.advance .ready) s).setFg []) :=
  .choice [.advance .ready] hc (if_neg (not_not_intro hst))

/-- With a supported interface SET_CONFIGURATION is sent and, when it is accepted, the TICK ends in `Ready` (rule R161). -/
theorem RunsTo.setConfiguration {s : State} {cfg : Byte} (h : s.CtReady) (hnsi : 0 < s.nsi)
    (hin : s.inputs = atWait (frame ++ [.setupAck 0, .inPacket 0 []])) :
    let r := reqSetConfiguration cfg
    ∃ d : CtDone, d.Of r s.cache s.cacheLen [] ∧ RunsTo 57 (s.setFg [.parseReturn (.tick cfg)])
      ((act (.advance .ready) (s.afterTransfer r d)).setFg []) := by
  intro r
  have hcalm : s.calm = true := State.calm_of_atWait hin
  let set := ctProg r .cache ++ [.retIfEmerg, .configuredSet]
  have hm : micro (.parseReturn (.tick cfg)) (s.setFg []) = Machine.thenDo set (s.setFg []) := if_pos hnsi
  have hstart := RunsTo.goOn set hcalm hm
  have hout : r.dirIn = false := by simp [r, Setup.dirIn, reqSetConfiguration]
  obtain ⟨d, hset, hdone⟩ := RunsTo.ctSet (r := r) (rest := [.retIfEmerg, .configuredSet]) (es := []) h hout rfl
    (by rw [hin, List.append_nil])
  have hafter : (s.afterTransfer r d).calm = true := State.calm_of_atWait rfl
  have hready := RunsTo.configuredSet hafter rfl
  exact ⟨d, hdone, (((hstart.trans hset).trans (.retIfEmerg hafter h.running.emerg)).trans hready).mono (by decide)⟩

/-- The configuration fetch and CHECK_CLASS (rule R161). -/
theorem RunsTo.fetchAndParse {s : State} {full : List (List Byte)} {last : List Byte} {es : List Event} (h : s.CtReady)
    (hplan : s.plan = []) (hlegal : s.cfg.legal = true) (hmps : legalMps s.ident.ctrlMps = true)
    (hends : EndsStage s.ident.ctrlMps (min s.cfg.sizeofDataStage 0xFFFF) (s.cfg.cap 0) full last)
    (hin : s.inputs = atWait (frame ++ [.setupAck 0] ++ arrivals 0 s.hal.lowSpeed full last ++ [.outReady 0] ++ es)) :
    let got := (full.flatten ++ last).take (min s.cfg.sizeofDataStage 0xFFFF)
    ∃ (d : CtDone) (t : State), d.Of (configFetch s.cfg) (Memory.writeBytes s.cache 0 got) got.length es ∧
      (s.afterTransfer (configFetch s.cfg) d).Kept t ∧ t.nsi ≤ s.cfg.maxInterface ∧
      RunsTo (160 * 65535 + 1200) (s.setFg (tickProg s.cfg .configured))
        (t.setFg [.parseReturn (.tick ((s.afterTransfer (configFetch s.cfg) d).cacheByte 5))]) := by
  intro got
  have hlength := configFetch_wLength s.cfg
  have hdir : (configFetch s.cfg).dirIn = true := by
    simp only [Setup.dirIn, configFetch, reqGetDescriptorConfiguration]
    decide
  obtain ⟨d, hfetch, hdone⟩ := RunsTo.ctFetch (r := configFetch s.cfg) (es := es) (rest := [.retIfEmerg, .configuredFetched])
    h hdir (hlength.trans_le (Nat.min_le_left _ _)) (hlength ▸ hends.endsRead) hin
  rw [hlength] at hdone
  let u := s.afterTransfer (configFetch s.cfg) d
  have hu : u.Walking := ⟨State.calm_of_atWait rfl, hlegal, hplan⟩
  have hcap : u.cacheLen ≤ u.cfg.sizeofDataStage := by
    have hlen : u.cacheLen = got.length := hdone.cacheLen
    rw [hlen]
    exact (List.length_take_le ..).trans (Nat.min_le_left _ _)
  have hparse := RunsTo.configuredFetched hu.calm rfl
  obtain ⟨t, hkept, hcount, hwalk⟩ := hu.parse hcap (.tick (u.cacheByte 5))
  refine ⟨d, t, hdone, hkept, hcount, ?_⟩
  refine (((hfetch.trans (.retIfEmerg hu.calm h.running.emerg)).trans hparse).trans hwalk).mono ?_
  have hsteps := hends.endsRead.steps_le (pos_of_legalMps hmps)
  rw [hlength]
  omega

/-- Memory that is the same cell for cell reads the same. -/
theorem CacheStored.of_cache_eq {s t u : State} {bytes : List Byte} (h : CacheStored s t bytes)
    (hcache : u.cache = t.cache) : CacheStored s u bytes := by
  have hsame (k : Nat) : u.cacheByte k = t.cacheByte k := congrArg (Memory.read · k) hcache
  exact ⟨fun k hk => (hsame k).trans (h.1 k hk), fun o ho => (hsame o).trans (h.2 o ho)⟩

theorem reqSetConfiguration_bytes (cfg : Byte) : (List.range 8).map (reqSetConfiguration cfg).byte =
    [0x00#8, 0x09#8, cfg, 0#8, 0#8, 0#8, 0#8, 0#8] := byteRequest_bytes 0x09#8 cfg

/-- Settles O24: the fetch, the record walk, and SET_CONFIGURATION when it found an interface. -/
theorem tickConfiguredDecides : Obligations.TickConfiguredDecides := by
  intro s full last hready hplan hlegal hwf hds hmps hends hin bytes
  obtain ⟨hfg, hemerg, -⟩ := id hready
  obtain ⟨d, p, hdone, hkept, hcount, hrun⟩ := RunsTo.fetchAndParse (es := frame ++ [.setupAck 0, .inPacket 0 []])
    hready.ctReady hplan hlegal hmps hends (by rw [hin, List.append_assoc])
  let u := s.afterTransfer (configFetch s.cfg) d
  obtain ⟨out, hissued, hnone⟩ := hkept.out
  have hstored : CacheStored s p bytes := (hdone.cacheStored hwf).of_cache_eq hkept.cache
  have hcacheLen : p.cacheLen = bytes.length := hkept.cacheLen.trans hdone.cacheLen
  have hinputs : p.inputs = atWait (frame ++ [.setupAck 0, .inPacket 0 []]) :=
    hkept.inputs.trans (congrArg atWait hdone.events)
  have hpemerg : p.flags.emerg = false := (congrArg FlagRegs.emerg hkept.flags).trans hemerg
  have hcalm : p.calm = true := State.calm_of_atWait hinputs
  have hsofie : p.en.sofie = s.en.sofie := (congrArg EnableRegs.sofie hkept.en :)
  have hhost (b o : Nat) : p.hostByte b o = s.hostByte b o := congrArg (Memory.read · _) hkept.hbuf
  have hfetchOut : Issued s p (hals d.out ++ out) := (State.afterTransfer_issued (configFetch s.cfg) d s).trans hissued
  have hfetchBytes : fifoBytes 0 (hals d.out ++ out) = (List.range 8).map (configFetch s.cfg).byte := by
    rw [fifoBytes_append, hnone, List.append_nil, hdone.out]
  rcases Nat.eq_zero_or_pos p.nsi with hzero | hpos
  · have hexec := (hrun.trans (.unsupported hcalm hzero)).exec_tick hfg hds (by decide) rfl
    refine ⟨_, hals d.out ++ out, hexec, rfl, hstored, hcacheLen, hcount, hfetchOut, ?_, ?_, hkept.ident, hsofie, hhost⟩
    · exact fun h => absurd hzero (Nat.ne_of_gt h)
    · intro _
      refine ⟨?_, hinputs, ?_⟩
      · simp [act, hpemerg]
      · rw [hfetchBytes, List.length_map, List.length_range]
  · obtain ⟨e, heDone, hset⟩ := RunsTo.setConfiguration (cfg := u.cacheByte 5)
      (hkept.ctReady (hready.ctReady.afterTransfer _ hdone.on)) hpos hinputs
    have hexec := (hrun.trans hset).exec_tick hfg hds (by decide) rfl
    let r := reqSetConfiguration (u.cacheByte 5)
    have hall : Issued s (p.afterTransfer r e) (hals d.out ++ out ++ hals e.out) :=
      hfetchOut.trans (State.afterTransfer_issued r e p)
    have hcache : (p.afterTransfer r e).cache = p.cache := heDone.cache
    refine ⟨_, hals d.out ++ out ++ hals e.out, hexec, rfl, hstored.of_cache_eq hcache,
      heDone.cacheLen.trans hcacheLen, hcount, hall, ?_, ?_, hkept.ident, hsofie, hhost⟩
    · intro _
      refine ⟨?_, congrArg atWait heDone.events, ?_⟩
      · simp [act, hpemerg]
      · have hbyte : p.cacheByte 5 = u.cacheByte 5 := congrArg (Memory.read · 5) hkept.cache
        have hafter : (p.afterTransfer r e).cacheByte 5 = u.cacheByte 5 :=
          (congrArg (Memory.read · 5) hcache).trans hbyte
        have hlength : ((List.range 8).map (configFetch s.cfg).byte).length = 8 := by simp
        rw [fifoBytes_append, hfetchBytes, heDone.out, List.drop_left' hlength]
        exact (reqSetConfiguration_bytes _).trans (by rw [← hafter]; rfl)
    · exact fun h => absurd h (Nat.ne_of_gt hpos)

end Sys2Proof.Machine
end

section
/-! PROOFS. The family `41_control_transfer.md`: what TRANSFER_CONTROL does with each answer of the device to its SETUP
packet (rule R213, rule R214, rule R219 to rule R224). -/

namespace Sys2Proof.Machine

/-! ### One poll of a control wait (rule R222) -/

theorem errorCode_eq_append (kinds : BitVec 5) : errorCode kinds = 0#3 ++ kinds :=
  BitVec.setWidth_eq_append (by decide)

/-- Settles O34: the tests stand in `ctPoll` in the order of the rule. -/
theorem ctWaitOrder : Obligations.CtWaitOrder := by
  intro s w
  simp only [micro, ctPoll, errorCode_eq_append, Bool.and_eq_true, decide_eq_true_eq]
  rfl

section
variable {u : State} {v : CtView} {w : CtWaitFor} {rest : List Micro}

/-- A poll of a clear pipe before its budget is spent. -/
theorem ctPoll_of_early (hemerg : u.flags.emerg = false) (hc : v.pipe.Clear) (hb : v.tmo < w.budget u.cfg)
    (hfg : v.fg = .ctPoll w :: rest) :
    micro (.ctPoll w) (u.ctAt { v with fg := rest }) = .pending (u.ctAt v) := by
  simp only [micro, ctPoll, State.ctAt_halPipe, hc.not_ready w, State.ctAt_flags, hemerg, State.ctAt_cfg,
    State.ctAt_cnt, Nat.not_le.mpr hb, hc.error, hc.stall, decide_false, Bool.and_false, ne_eq, not_true, if_false,
    Bool.false_eq_true, stay, State.ctAt_push, List.cons_append, List.nil_append, ← hfg]

/-- A poll of a clear pipe when its budget is spent (rule R223). -/
theorem ctPoll_of_spent (hemerg : u.flags.emerg = false) (hdetect : u.cfg.timeoutDetection = true) (hc : v.pipe.Clear)
    (hb : w.budget u.cfg ≤ v.tmo) :
    micro (.ctPoll w) (u.ctAt v) = .ran ((u.ctAt v).raise Micro.isCtExit Status.timeout) := by
  simp only [micro, ctPoll, State.ctAt_halPipe, hc.not_ready w, State.ctAt_flags, hemerg, State.ctAt_cfg,
    State.ctAt_cnt, hdetect, hb, decide_true, Bool.and_true, if_true, if_false, Bool.false_eq_true]

/-- A poll that finds a STALL before the budget is spent. -/
theorem ctPoll_of_stall (hemerg : u.flags.emerg = false) (hb : v.tmo < w.budget u.cfg)
    (hready : w.ready v.pipe = false) (herror : v.pipe.error = 0#5) (hstall : v.pipe.stall = true) :
    micro (.ctPoll w) (u.ctAt v) = .ran ((u.ctAt v).raise Micro.isCtExit Status.stall) := by
  simp only [micro, ctPoll, State.ctAt_halPipe, hready, State.ctAt_flags, hemerg, State.ctAt_cfg, State.ctAt_cnt,
    Nat.not_le.mpr hb, herror, hstall, decide_false, Bool.and_false, ne_eq, not_true, if_true, if_false,
    Bool.false_eq_true]

end

/-! ### A request with no data stage (rule R227 (1) and (2)) -/

section
variable {u : State} {v : CtView} {rest : List Micro} {es : List Event}

/-- The IN status stage, whatever the packet that answers it holds (rule R221): the ack drops it. -/
theorem RunsTo.ctStatusInPacket {bytes : List Byte} (hu : u.CtRunning) (hc : v.pipe.Clear)
    (hfg : v.fg = Machine.ctStatusIn ++ rest) (hes : v.events = .inPacket Config.pControl bytes :: es) :
    RunsTo 9 (u.ctAt v) (u.ctAt { v with
      pipe := { v.pipe with
        token := .receive, frozen := false, inReady := false, byteCount := bytes.length, fifo := [] }
      out := v.out ++ [.setToken Config.pControl .receive, .unfreezePipe Config.pControl, .sendIn Config.pControl,
        .ackIn Config.pControl]
      ct := { v.ct with phase := .statusIn }, st := Status.good, tmo := 0, fg := rest, events := es }) := by
  let asking : List Act := [.ctPhase .statusIn, .hal (.setToken Config.pControl .receive),
    .hal (.unfreezePipe Config.pControl), .hal (.sendIn Config.pControl), .zeroTmo]
  let taken : List Act := [.hal (.ackIn Config.pControl), .setStatus Status.good]
  let polling : List Micro := .ctPoll .statusIn :: (actSteps taken ++ rest)
  let asked : CtView := asking.foldl CtView.after { v with fg := polling }
  have hask : RunsTo 5 (u.ctAt v) (u.ctAt asked) := .ctActs (l := asking) hu.alloc hc.on hfg rfl
  have hclear : asked.pipe.Clear := { hc with }
  let held := (u.ctAt { asked with events := es }).fitFifo Config.pControl bytes
  let answered : CtView := { asked with pipe := asked.pipe.receive held bytes.length, events := es }
  have harrives : RunsTo 1 (u.ctAt asked) (u.ctAt answered) :=
    .ctPending rfl hes (ctPoll_of_clear hu hclear rfl rfl) (congrArg _ (State.ctAt_raiseOn hu.sofgen _ _))
  have hended : RunsTo 1 (u.ctAt answered) (u.ctAt { answered with st := Status.good, fg := actSteps taken ++ rest }) :=
    .ctMicro rfl (ctPoll_of_ready (HalPipe.receive_inReady ..))
  have hon : answered.pipe.on = true := by simp [answered, HalPipe.receive, hclear.inReady, hclear.on]
  have hrun := ((hask.trans harrives).trans hended).trans (.ctActs (l := taken) hu.alloc hon rfl rfl)
  simpa [CtView.after, HalPipe.respond, HalPipe.receive, hc.inReady, asking, taken, asked, answered] using hrun

/-- A data stage of no bytes goes on with the status stage of its direction (rule R219, rule R221). -/
theorem RunsTo.ctNoStage {dirIn : Bool} (hrem : v.ct.rem = 0)
    (hfg : v.fg = (if dirIn then .ctInLoop else .ctOutLoop) :: rest) :
    RunsTo 1 (u.ctAt v) (u.ctAt { v with fg := (if dirIn then Machine.ctStatusOut else Machine.ctStatusIn) ++ rest }) := by
  refine .ctMicro hfg ?_
  cases dirIn <;> exact if_neg (by simp [hrem])

end

/-- The whole run of a transfer whose request has no data stage. -/
theorem RunsTo.ctNoData {s : State} {b : BitVec 8} {packet : List Byte} (hready : ControlReady s)
    (hlen : s.request.wLength = 0#16)
    (hin : s.inputs = atWait (frame ++ [Event.setupAck 0, if s.request.dirIn then .outReady 0 else .inPacket 0 packet])) :
    ∃ (h : HalPipe) (phase : CtPhase), RunsTo 54
      (s.setFg (ctProg s.request (bufferOperand b s.args) ++ [.act .resStatus]))
      ((s.ctOpened.ctClosed ⟨phase, 0, 0, bufferOperand b s.args⟩).ctAt {
        pipe := h
        out := setupActions s ++
          [HalAction.ackSetup 0, .setToken 0 (if s.request.dirIn then .receive else .send)] ++
          (if s.request.dirIn then statusOutActions else statusInActions)
        ct := ⟨.idle, 0, 0, .none⟩, st := Status.good, tmo := 0, fg := [], events := [] }) := by
  have hu := hready.ctOpened
  have hzero : s.request.wLength.toNat = 0 := by rw [hlen]; rfl
  obtain ⟨h, hclear, hopen⟩ := RunsTo.ctOpen (b := b) hready (by rw [hzero]; exact Nat.zero_le _) hin
  have hstage := (hopen.trans (.ctStage hu hclear.on rfl)).trans (.ctNoStage hzero rfl)
  rw [show s.ctOpened.sr = s.request from rfl, hzero] at hstage
  rw [← Setup.actions_request]
  cases hdir : s.request.dirIn with
  | true =>
    simp only [hdir, if_true] at hstage ⊢
    have hstatus := hstage.trans (.ctStatusOut hu { hclear with } rfl rfl)
    have hexit := hstatus.trans (.ctExit hu hclear.on rfl rfl)
    exact ⟨_, .statusOut, by simpa [statusOutActions, Config.pControl] using hexit⟩
  | false =>
    simp only [hdir, Bool.false_eq_true, if_false] at hstage ⊢
    have hstatus := hstage.trans (.ctStatusInPacket hu { hclear with } rfl rfl)
    have hexit := hstatus.trans (.ctExit hu hclear.on rfl rfl)
    exact ⟨_, .statusIn, by simpa [statusInActions, Config.pControl] using hexit⟩

/-- Settles O26: the run, phase by phase, of a transfer without a data stage. -/
theorem controlNoData : Obligations.ControlNoData := by
  intro s b packet hb hready hlen dirIn hin
  obtain ⟨hfg, -⟩ := id hready
  obtain ⟨h, phase, hrun⟩ := RunsTo.ctNoData (b := b) hready hlen hin
  have hexec := hrun.run_eq (n := burst) (by decide) rfl
  rw [show s.ctOpened = (s.ctOpened.setCache s.cache).setHbuf s.hbuf from rfl, State.ctClosed_eq] at hexec
  refine ⟨_, (exec_transferControl hb hfg).trans hexec, rfl, State.ctFrozen_twice_pipe s, ?_⟩
  simp only [bufferOperand_eq_cache, and_comm (a := s.request.dirIn = true), hfg]
  rfl

/-! ### The round trip of an IN data stage (rule R230) -/

/-- The whole run of a transfer whose IN data stage any number of full packets and one that ends it make. -/
theorem RunsTo.ctRead {s : State} {b : BitVec 8} {full : List (List Byte)} {last : List Byte} (hready : ControlReady s)
    (hdir : s.request.dirIn = true) (hcap : s.request.wLength.toNat ≤ (bufferOperand b s.args).capacity s.cfg)
    (hends : EndsRead s.ident.ctrlMps s.request.wLength.toNat (s.cfg.cap 0) s.request.incompleteRead full last)
    (hin : s.inputs = atWait (frame ++ [Event.setupAck 0] ++ arrivals 0 s.hal.lowSpeed full last ++ [Event.outReady 0])) :
    let got := (full.flatten ++ last).take s.request.wLength.toNat
    ∃ (n : Nat) (c : CtRegs) (w : CtView), RunsTo (18 * full.length + got.length + 67)
      (s.setFg (ctProg s.request (bufferOperand b s.args) ++ [.act .resStatus]))
      ((((s.ctOpened.framedBy n).store (bufferOperand b s.args) 0 got).ctClosed c).ctAt w) ∧
      c.off = got.length ∧ c.buf = bufferOperand b s.args ∧ w.fg = [] := by
  intro got
  have hscript : s.inputs = atWait (.sof :: .irq :: .setupAck Config.pControl ::
      (arrivals 0 s.hal.lowSpeed full last ++ [.outReady 0])) := by
    rw [hin]
    simp [frame, Config.pControl]
  have hreading : s.ctOpened.Reading := ⟨hready.ctOpened, hready.ctReady.onlySof, rfl, rfl⟩
  obtain ⟨h, hclear, hopen⟩ := RunsTo.ctOpen (b := b) hready hcap hscript
  have hstage := hopen.trans (.ctStage hready.ctOpened hclear.on rfl)
  simp only [show s.ctOpened.sr.dirIn = true from hdir, if_true] at hstage
  obtain ⟨n, w, hpackets, hwclear, hwoff, hwbuf, hwfg, hwes, -⟩ := RunsTo.ctInPackets (v := {
    pipe := { h with token := .receive }
    out := s.request.actions ++ [HalAction.ackSetup Config.pControl] ++ [HalAction.setToken Config.pControl .receive]
    ct := ⟨.setup, s.request.wLength.toNat, 0, bufferOperand b s.args⟩, st := Status.good, tmo := 0
    fg := [.ctInLoop, .ctExit, .act .resStatus], events := _ }) hreading { hclear with } rfl hends
    ((Nat.zero_add _).le.trans hcap) rfl rfl
  have hstored := ((hreading.framedBy n).store (bufferOperand b s.args) 0 got).running
  have hstatus := (hstage.trans hpackets).trans (.ctStatusOut hstored hwclear hwfg hwes)
  have hexit := hstatus.trans (.ctExit hstored hwclear.on rfl rfl)
  exact ⟨n, _, _, hexit.mono (by simp only [got]; omega), hwoff.trans (Nat.zero_add _), hwbuf, rfl⟩

@[simp] theorem State.ctClosed_ds (c : CtRegs) (u : State) : (u.ctClosed c).ds = u.ds := rfl

/-- Settles O28: the bytes of the packets are stored one packet after another. -/
theorem controlReadRoundTrip : Obligations.ControlReadRoundTrip := by
  intro s b full last hb hready hcache hhbuf hlegal hmps hdir hinc hcap hends hin got
  obtain ⟨hfg, -⟩ := id hready
  have hread := hends.endsRead
  obtain ⟨n, c, w, hrun, hoff, hbuf, hwfg⟩ := RunsTo.ctRead hready hdir hcap (hinc ▸ hread) hin
  have hsteps := hread.steps_le (pos_of_legalMps hmps)
  have hlong := s.request.wLength.isLt
  have hgot : got.length ≤ 65536 := (List.length_take_le _ _).trans hlong.le
  have hexec := hrun.run_eq (n := burst) (by simp only [burst]; omega) hwfg
  obtain ⟨hc, hh⟩ := State.store_memory (u := s.ctOpened.framedBy n) (u' := s) (bufferOperand b s.args) 0 got rfl rfl
  rw [State.store_eq] at hexec
  have hlen : (if s.request.dirIn = true ∧ c.buf = .cache then c.off else s.cacheLen) =
      if b = 0#8 then got.length else s.cacheLen := by
    simp only [hbuf, hoff, bufferOperand_eq_cache, show s.request.dirIn = true from hdir, true_and]
    rfl
  refine ⟨_, (exec_transferControl hb hfg).trans hexec, hwfg, rfl, .of_store hcache hhbuf hgot hc hh, hlen, rfl, ?_⟩
  simp only [State.ctAt_ds, State.ctClosed_ds, State.setHbuf_ds, State.setCache_ds]
  rfl

end Sys2Proof.Machine
end

section
/-! PROOFS. The family `41_control_transfer.md`: a control transfer whose SETUP packet the device does not acknowledge, and
the exit that follows (rule R222 to rule R224). -/

namespace Sys2Proof.Machine

/-! ### The exit of a transfer that fails (rule R224) -/

/-- The acks of what is pending on the control pipe. -/
def HalPipe.acks (h : HalPipe) : List HalAction :=
  (if h.error ≠ 0#5 then [.ackErrors Config.pControl] else []) ++ (if h.stall then [.ackStall Config.pControl] else [])

section
variable {u : State} {v : CtView} {rest : List Micro} (ha : (u.pipe Config.pControl).alloc = true)
  (hon : v.pipe.on = true)
include ha hon

theorem State.ctAt_ackErrors : (u.ctAt v).doHal (.ackErrors Config.pControl) =
    u.ctAt { v with pipe := { v.pipe with error := 0#5 }, out := v.out ++ [.ackErrors Config.pControl] } := by
  rw [State.doHal, State.ctAt_emit]
  exact State.ctAt_onLive (v := { v with out := v.out ++ [.ackErrors Config.pControl] }) ha hon _

theorem State.ctAt_ackStall : (u.ctAt v).doHal (.ackStall Config.pControl) =
    u.ctAt { v with pipe := { v.pipe with stall := false }, out := v.out ++ [.ackStall Config.pControl] } := by
  rw [State.doHal, State.ctAt_emit]
  exact State.ctAt_onLive (v := { v with out := v.out ++ [.ackStall Config.pControl] }) ha hon _

theorem State.ctAt_errorsAcked :
    (u.ctAt v).guarded (decide (v.pipe.error ≠ 0#5)) [.hal (.ackErrors Config.pControl)] = u.ctAt { v with
      pipe := { v.pipe with error := 0#5 }
      out := v.out ++ if v.pipe.error ≠ 0#5 then [.ackErrors Config.pControl] else [] } := by
  by_cases herror : v.pipe.error = 0#5
  · have hsame : { v.pipe with error := 0#5 } = v.pipe := by rw [← herror]
    simp [State.guarded, herror, hsame]
  · simpa [State.guarded, herror, acts, act] using State.ctAt_ackErrors ha hon

theorem State.ctAt_stallAcked :
    (u.ctAt v).guarded v.pipe.stall [.hal (.ackStall Config.pControl)] = u.ctAt { v with
      pipe := { v.pipe with stall := false }
      out := v.out ++ if v.pipe.stall then [.ackStall Config.pControl] else [] } := by
  cases hstall : v.pipe.stall with
  | false =>
    have hsame : { v.pipe with stall := false } = v.pipe := by rw [← hstall]
    simp [State.guarded, hsame]
  | true => simpa [State.guarded, acts, act] using State.ctAt_ackStall ha hon

theorem State.ctAcked_ctAt : (u.ctAt v).ctAcked = u.ctAt { v with
    pipe := { v.pipe with error := 0#5, stall := false }, out := v.out ++ v.pipe.acks } := by
  rw [State.ctAcked, State.ctAt_halPipe, State.ctAt_errorsAcked ha hon, State.ctAt_halPipe]
  exact (State.ctAt_stallAcked (v := { v with
    pipe := { v.pipe with error := 0#5 }
    out := v.out ++ if v.pipe.error ≠ 0#5 then [.ackErrors Config.pControl] else [] }) ha hon).trans
    (by rw [HalPipe.acks, ← List.append_assoc])

/-- What a failed transfer leaves, seen from the transfer: everything pending acknowledged, the pipe reset and frozen. -/
theorem State.ctFailed_ctAt : (u.ctAt v).ctFailed = (u.ctLeft v.ct).ctAt { v with
    pipe := v.pipe.reset, out := v.out ++ v.pipe.acks ++ [.resetPipe Config.pControl], ct := ⟨.idle, 0, 0, .none⟩ } := by
  let acked : CtView := { v with pipe := { v.pipe with error := 0#5, stall := false }, out := v.out ++ v.pipe.acks }
  have hfrozen : acts [.hal (.resetPipe Config.pControl), .setFrozen Config.pControl true] (u.ctAt acked) =
      (u.ctFrozen true).ctAt { v with
        pipe := v.pipe.reset, out := v.out ++ v.pipe.acks ++ [.resetPipe Config.pControl] } :=
    congrArg (act (.setFrozen Config.pControl true)) (State.ctAt_doHal (v := acked) ha hon rfl)
  rw [State.ctFailed, State.ctAcked_ctAt ha hon, hfrozen, State.ctLatched_eq]
  rfl

/-- A transfer whose wait for the acknowledgement of its SETUP packet ends with another status than `Good`, and its exit. -/
theorem RunsTo.ctSetupFails {st : Status} (hfg : v.fg = ctAnswerSteps rest) (hst : st ≠ Status.good)
    (hpoll : ∀ fg, micro (.ctPoll .setupAck) (u.ctAt { v with fg := fg }) =
      .ran ((u.ctAt { v with fg := fg }).raise Micro.isCtExit st)) :
    RunsTo 15 (u.ctAt v) ((u.ctLeft v.ct).ctAt { v with
      pipe := v.pipe.reset, out := v.out ++ v.pipe.acks ++ [.resetPipe Config.pControl]
      ct := ⟨.idle, 0, 0, .none⟩, st := st, fg := rest }) := by
  have hraised : RunsTo 1 (u.ctAt v) (u.ctAt { v with st := st, fg := .ctExit :: rest }) := .ctMicro hfg (hpoll _)
  have hfail := RunsTo.ctFail (s := u.ctAt { v with st := st }) (rest := rest) (State.ctAt_calm ..) hst
  rw [State.ctFailed_ctAt (v := { v with st := st }) ha hon] at hfail
  exact hraised.trans hfail

end

/-! ### A SETUP packet on its way (rule R211 to rule R213) -/

/-- A transfer up to the wait for the acknowledgement of its SETUP packet. -/
theorem RunsTo.ctSend {s : State} {r : Setup} {b : CtBuf} {rest : List Micro} {es : List Event} (h : s.CtReady)
    (hcap : r.wLength.toNat ≤ b.capacity s.cfg) (hin : s.inputs = atWait (.sof :: .irq :: es)) :
    ∃ p : HalPipe, p.Clear ∧ RunsTo 26 (s.setFg (ctProg r b ++ rest)) ((s.ctOpenedBy r).ctAt {
      pipe := p, out := r.actions, ct := ⟨.setup, 0, 0, b⟩, st := s.st, tmo := 0
      fg := ctAnswerSteps rest, events := es }) := by
  obtain ⟨n, henter⟩ := RunsTo.ctEnter (rest := rest) h hcap hin
  have hframed : (s.ctEntered r).framed.CtRunning := h.running.of_eq rfl rfl rfl rfl
  let entered : CtView := {
    pipe := s.halPipe Config.pControl, out := [], ct := ⟨.waitSof, 0, 0, b⟩, st := s.st, tmo := n
    fg := ctAnswerSteps rest, events := es }
  obtain ⟨fifo, hacts⟩ := acts_ctSetupActs (v := entered) hframed h.on
  have hsend := RunsTo.of_acts (l := ctSetupActs) (rest := ctAnswerSteps rest) (State.ctAt_calm (s.ctEntered r).framed
    { entered with fg := actSteps ctSetupActs ++ ctAnswerSteps rest }) rfl
  rw [State.ctAt_setFg, hacts] at hsend
  exact ⟨{ (s.halPipe Config.pControl).reset with token := .setup, fifo := fifo, frozen := false, sent := true },
    ⟨h.on, rfl, rfl, rfl, rfl, rfl⟩, henter.trans hsend⟩

/-- A TRANSFER_CONTROL that fails writes its status last. -/
theorem RunsTo.resStatus {u : State} {v : CtView} (hfg : v.fg = [.act .resStatus]) :
    RunsTo 1 (u.ctAt v) ((u.setRes { u.res with status := v.st }).ctAt { v with fg := [] }) :=
  .ctAct hfg rfl

theorem SameMemory.of_eq {s t : State} (hcache : t.cache = s.cache) (hhbuf : t.hbuf = s.hbuf) : SameMemory s t :=
  ⟨fun off => congrArg (Memory.read · off) hcache, fun b off => congrArg (Memory.read · (hostAddr b off)) hhbuf⟩

/-- A transfer that fails before its data stage leaves the memories as they were. -/
theorem SameMemory.of_setup (s : State) (n : Nat) (c : CtRegs) (res : Results) (v : CtView) :
    SameMemory s ((((s.ctOpened.framedBy n).ctLeft c).setRes res).ctAt v) := by
  refine .of_eq ?_ ?_
  · rw [State.ctAt_cache, State.setRes_cache]
    rfl
  · rw [State.ctAt_hbuf, State.setRes_hbuf]
    rfl

/-! ### STALL (rule R222) -/

/-- Settles O31: the STALL comes at the wait for the acknowledgement, and the transfer exits. -/
theorem controlStall : Obligations.ControlStall := by
  intro s b hb hready hcap hin
  obtain ⟨hfg, -⟩ := id hready
  obtain ⟨p, hclear, hsend⟩ := RunsTo.ctSend (r := s.request) (rest := [.act .resStatus]) (es := [.stall 0])
    hready.ctReady hcap hin
  have hu := hready.ctOpened
  let sent : CtView := {
    pipe := p, out := s.request.actions, ct := ⟨.setup, 0, 0, bufferOperand b s.args⟩, st := s.st, tmo := 0
    fg := ctAnswerSteps [.act .resStatus], events := [.stall 0] }
  let stalled : CtView := { sent with pipe := { p with stall := true }, events := [] }
  have hstall : RunsTo 1 (s.ctOpened.ctAt sent) (s.ctOpened.ctAt stalled) :=
    .ctPending rfl rfl (ctPoll_of_clear hu hclear rfl rfl) (congrArg _ (State.ctAt_raiseOn hu.sofgen _ _))
  have hfail := (hsend.trans hstall).trans (.ctSetupFails (v := stalled) hu.alloc hclear.on rfl
    (by decide : Status.stall ≠ Status.good) fun _ =>
      ctPoll_of_stall hu.emerg hu.setupBudget hclear.setupAck hclear.error rfl)
  have hexec := (hfail.trans (.resStatus rfl)).run_eq (n := burst) (by decide) rfl
  refine ⟨_, (exec_transferControl hb hfg).trans hexec, rfl, rfl, rfl, ?_, ?_, ?_, ?_, ?_, rfl, rfl,
    .of_setup s 0 ..⟩
  · exact congrArg Pipe.frozen (State.ctFrozen_pipe true s.ctOpened 0)
  · exact congrArg HalPipe.frozen (State.ctAt_halPipe ..)
  · exact congrArg HalPipe.stall (State.ctAt_halPipe ..)
  · exact congrArg HalPipe.fifo (State.ctAt_halPipe ..)
  · have hacks : stalled.pipe.acks = [.ackStall 0] := by simp [HalPipe.acks, stalled, hclear.error, Config.pControl]
    rw [hacks, Issued]
    simp only [stalled, sent, Setup.actions_request, setupActions, List.append_assoc]
    rfl

/-! ### The budget of the SETUP phase (rule R223) -/

/-- A start of frame while `TMO` is below its bound counts one frame (rule R421). -/
theorem evSofBody_ctAt_of_lt {u : State} {v : CtView} (hie : u.en.sofie = true) (hlt : v.tmo < 0xFFFF) :
    evSofBody (u.ctAt v) = (u.framedBy 1).ctAt { v with tmo := v.tmo + 1 } := by
  simp only [evSofBody, State.ctAt_en, hie, State.ctAt_cnt, hlt, decide_true, Bool.and_true, if_true]
  rfl

/-- A start of frame at a control wait whose budget is not spent. -/
theorem RunsTo.ctFrameAtWait {u : State} {v : CtView} {w : CtWaitFor} {rest : List Micro} {es : List Event}
    (hu : u.Reading) (hc : v.pipe.Clear) (hb : v.tmo < w.budget u.cfg) (hmax : w.budget u.cfg ≤ 0xFFFF)
    (hfg : v.fg = .ctPoll w :: rest) (hes : v.events = .sof :: .irq :: es) :
    RunsTo 2 (u.ctAt v) ((u.framedBy 1).ctAt { v with tmo := v.tmo + 1, events := es }) := by
  obtain ⟨hrunning, hsof, hie, -⟩ := hu
  let raised : State := { u with hal := { u.hal with sof := true } }
  have hraised : RunsTo 1 (u.ctAt v) (raised.ctAt { v with events := .irq :: es }) := by
    refine .ctPending hfg hes (ctPoll_of_early hrunning.emerg hc hb hfg) ?_
    simp only [occur, State.ctAt, State.setHal, hrunning.sofgen, Bool.or_true, raised]
  have hentered : sequencer (raised.ctAt { v with events := es }) =
      .next ((u.framedBy 1).ctAt { v with tmo := v.tmo + 1, events := es }) :=
    (sequencer_of_sof (s := raised.ctAt { v with events := es }) hsof hrunning.sofgen rfl).trans
      (congrArg _ (evSofBody_ctAt_of_lt (u := raised) hie (hb.trans_le hmax)))
  exact hraised.trans (.ctPending (v := { v with events := .irq :: es }) hfg rfl
    (ctPoll_of_early (u := raised) (v := { v with events := .irq :: es }) hrunning.emerg hc hb hfg) hentered)

/-- So many starts of frame at a control wait as its budget leaves. -/
theorem RunsTo.ctFramesAtWait {n : Nat} {u : State} {v : CtView} {w : CtWaitFor} {rest : List Micro}
    (hu : u.Reading) (hc : v.pipe.Clear) (hb : v.tmo + n ≤ w.budget u.cfg) (hmax : w.budget u.cfg ≤ 0xFFFF)
    (hfg : v.fg = .ctPoll w :: rest) (hes : v.events = frames n) :
    RunsTo (2 * n) (u.ctAt v) ((u.framedBy n).ctAt { v with tmo := v.tmo + n, events := [] }) := by
  induction n generalizing u v with
  | zero =>
    rw [hu.seen, Nat.add_zero, ← show v.events = [] from hes]
    exact .refl _
  | succ n ih =>
    have hframe := RunsTo.ctFrameAtWait (es := frames n) hu hc (by omega) hmax hfg hes
    have hrest := ih (u := u.framedBy 1) (v := { v with tmo := v.tmo + 1, events := frames n }) (hu.framedBy 1) hc
      (by simp only [State.framedBy_cfg]; omega) hmax hfg rfl
    rw [State.framedBy_framedBy, Nat.add_right_comm, Nat.add_assoc v.tmo] at hrest
    exact (hframe.trans hrest).mono (by omega)

/-- A run that comes to a pending poll when the environment has no more inputs ends there, waiting. -/
theorem RunsTo.run_waiting {k n : Nat} {s t : State} {m : Micro} {rest : List Micro} (h : RunsTo k s t) (hkn : k < n)
    (hin : t.inputs = []) (hfg : t.fg = m :: rest) (hm : micro m (t.setFg rest) = .pending t) : run n s = .next t := by
  obtain ⟨j, hj, hrun⟩ := h
  obtain ⟨i, rfl⟩ := Nat.exists_eq_add_of_le (Nat.succ_le_of_lt (hj.trans_lt hkn))
  rw [Nat.succ_add, ← Nat.add_succ, hrun, run_hang i t t m rest (State.calm_nil hin) hfg hm hin]

theorem Config.legal_setupTimeout {c : Config} (h : c.legal = true) : c.ctrlSetupTimeout < 0xFFFF := by
  simp only [Config.legal, Bool.and_eq_true, decide_eq_true_eq] at h
  omega

/-- Settles O30: each frame at the wait counts one, and the poll after the last of the budget ends the transfer. -/
theorem setupTimeoutExact : Obligations.SetupTimeoutExact := by
  intro s b n hb hready hlegal hdetect hcap hn hin
  obtain ⟨hfg, -⟩ := id hready
  have hmax := Config.legal_setupTimeout hlegal
  obtain ⟨p, hclear, hsend⟩ := RunsTo.ctSend (r := s.request) (rest := [.act .resStatus]) (es := frames n)
    hready.ctReady hcap hin
  have hreading : s.ctOpened.Reading := ⟨hready.ctOpened, hready.ctReady.onlySof, rfl, rfl⟩
  let counted : CtView := {
    pipe := p, out := s.request.actions, ct := ⟨.setup, 0, 0, bufferOperand b s.args⟩, st := s.st, tmo := n
    fg := ctAnswerSteps [.act .resStatus], events := [] }
  let u := s.ctOpened.framedBy n
  have hframes := RunsTo.ctFramesAtWait (w := .setupAck) (v := { counted with tmo := 0, events := frames n }) hreading
    hclear ((Nat.zero_add n).trans_le hn) hmax.le rfl rfl
  rw [Nat.zero_add] at hframes
  have hwait : RunsTo (26 + 2 * n) _ (u.ctAt counted) := hsend.trans hframes
  obtain ⟨hu, -, hie, -⟩ := hreading.framedBy n
  rcases hn.lt_or_eq with hlt | hspent
  · have hexec := hwait.run_waiting (n := burst) (by simp only [burst]; omega) rfl rfl
      (ctPoll_of_early (w := .setupAck) (v := counted) hu.emerg hclear hlt rfl)
    exact ⟨_, (exec_transferControl hb hfg).trans hexec, rfl, .of_eq rfl rfl,
      fun _ => ⟨List.cons_ne_nil _ _, rfl, rfl, hie⟩, fun heq => absurd heq hlt.ne⟩
  · have hfail := hwait.trans (.ctSetupFails (v := counted) hu.alloc hclear.on rfl
      (by decide : Status.timeout ≠ Status.good) fun _ => ctPoll_of_spent hu.emerg hdetect hclear hspent.ge)
    have hexec := (hfail.trans (.resStatus rfl)).run_eq (n := burst) (by simp only [burst]; omega) rfl
    refine ⟨_, (exec_transferControl hb hfg).trans hexec, rfl, .of_setup ..,
      fun hlt => absurd hspent hlt.ne, fun _ => ⟨rfl, rfl, rfl, ?_, ?_, rfl⟩⟩
    · exact congrArg Pipe.frozen (State.ctFrozen_pipe true u 0)
    · exact congrArg HalPipe.fifo (State.ctAt_halPipe ..)

end Sys2Proof.Machine
end

section
/-! PROOFS. The family `42_descriptor_parser.md`: CHECK_VID_PID (rule R260, rule R261). -/

namespace Sys2Proof.Machine

/-! ### The groups of `VIDPID_TABLE` (rule R125) -/

/-- The group at word `g` of table `l` has the VID `v` and lists the PID `d` before the table ends (rule R260). -/
def GroupLists (l : List Half) (g : Nat) (v d : Half) : Prop :=
  g + 2 ≤ l.length ∧ l.getD g 0#16 = v ∧
    ∃ k, k < (l.getD (g + 1) 0#16).toNat ∧ g + 2 + k < l.length ∧ l.getD (g + 2 + k) 0#16 = d

section
variable (vid n : Half) (rest : List Half) {v d : Half}

/-- A word behind the first group, read in the rest of the table. -/
theorem getD_behindGroup {i j : Nat} (hj : j = i + 2 + n.toNat) :
    (vid :: n :: rest).getD j 0#16 = (rest.drop n.toNat).getD i 0#16 := by
  have hj : j = n.toNat + i + 1 + 1 := by omega
  simp [hj]

/-- The groups of a table are its first one and those of the rest of the table. -/
theorem groupAt_cons_cons {g : Nat} : GroupAt (vid :: n :: rest) g ↔
    g = 0 ∨ ∃ h, GroupAt (rest.drop n.toNat) h ∧ g = h + 2 + n.toNat := by
  have hroom (h : Nat) : h + 2 + n.toNat + 2 ≤ (vid :: n :: rest).length ↔ h + 2 ≤ (rest.drop n.toNat).length := by
    simp only [List.length_cons, List.length_drop]
    omega
  have hcount (h : Nat) := getD_behindGroup vid n rest (i := h + 1) (j := h + 2 + n.toNat + 1) (by omega)
  constructor
  · intro hg
    induction hg with
    | first => exact .inl rfl
    | next g _ hl ih =>
      obtain rfl | ⟨h, hh, rfl⟩ := ih
      · exact .inr ⟨0, .first, rfl⟩
      · exact .inr ⟨_, .next h hh ((hroom h).mp hl), by rw [hcount]; omega⟩
  · rintro (rfl | ⟨h, hh, rfl⟩)
    · exact .first
    · induction hh with
      | first => exact .next 0 .first (Nat.le_add_left 2 _)
      | next h _ hl ih =>
        have hnext := GroupAt.next _ ih ((hroom h).mpr hl)
        rw [hcount] at hnext
        convert hnext using 1
        omega

/-- The first group lists what stands within its count, cut at the end of the table (rule R260). -/
theorem groupLists_zero : GroupLists (vid :: n :: rest) 0 v d ↔ vid = v ∧ d ∈ rest.take n.toNat := by
  have hword (k : Nat) : (vid :: n :: rest).getD (0 + 2 + k) 0#16 = rest.getD k 0#16 := by
    rw [Nat.zero_add, Nat.add_comm]
    rfl
  simp only [GroupLists, hword, List.mem_take_iff_getElem, List.length_cons, List.getD_cons_zero, List.getD_cons_succ]
  refine ⟨fun ⟨_, hv, k, hk, hlen, hd⟩ => ⟨hv, k, by omega, ?_⟩,
    fun ⟨hv, k, hk, hd⟩ => ⟨by omega, hv, k, by omega, by omega, ?_⟩⟩
  · rwa [List.getD_eq_getElem rest _ (by omega)] at hd
  · rwa [List.getD_eq_getElem rest _ (by omega)]

/-- A group behind the first one lists the same in the rest of the table. -/
theorem groupLists_behind {g : Nat} :
    GroupLists (vid :: n :: rest) (g + 2 + n.toNat) v d ↔ GroupLists (rest.drop n.toNat) g v d := by
  have hvid := getD_behindGroup vid n rest (i := g) rfl
  have hcount := getD_behindGroup vid n rest (i := g + 1) (j := g + 2 + n.toNat + 1) (by omega)
  have hword (k : Nat) := getD_behindGroup vid n rest (i := g + 2 + k) (j := g + 2 + n.toNat + 2 + k) (by omega)
  simp only [GroupLists, hvid, hcount, hword, List.length_cons, List.length_drop]
  refine and_congr (by omega) (and_congr_right fun _ => exists_congr fun k => and_congr_right fun _ =>
    and_congr_left fun _ => ?_)
  omega

end

/-- The search of CHECK_VID_PID is membership by groups: the first group, or a group of the rest of the table. -/
theorem vidPidIn_iff (k : Nat) (v d : Half) (l : List Half) (hk : l.length ≤ k) :
    vidPidIn k v d l = true ↔ ∃ g, GroupAt l g ∧ GroupLists l g v d := by
  have hshort (l : List Half) (hl : l.length < 2) : ¬ ∃ g, GroupAt l g ∧ GroupLists l g v d := by
    rintro ⟨g, -, hroom, -⟩
    omega
  induction k generalizing l with
  | zero => exact iff_of_false Bool.false_ne_true (hshort l (by omega))
  | succ k ih =>
    match l with
    | [] => exact iff_of_false Bool.false_ne_true (hshort [] (by decide))
    | [w] => exact iff_of_false Bool.false_ne_true (hshort [w] (by decide : 1 < 2))
    | vid :: n :: rest =>
      have hrest : (rest.drop n.toNat).length ≤ k := by
        simp only [List.length_cons, List.length_drop] at hk ⊢
        omega
      have hfirst : ((vid == v && (rest.take n.toNat).contains d) = true) ↔ GroupLists (vid :: n :: rest) 0 v d := by
        simp [groupLists_zero]
      rw [vidPidIn, Bool.or_eq_true]
      refine (or_congr hfirst (ih _ hrest)).trans ?_
      simp only [groupAt_cons_cons, or_and_right, exists_or, exists_eq_left]
      refine or_congr_right ⟨?_, ?_⟩
      · rintro ⟨g, hg, hlists⟩
        exact ⟨_, ⟨g, hg, rfl⟩, (groupLists_behind vid n rest).mpr hlists⟩
      · rintro ⟨_, ⟨g, hg, rfl⟩, hlists⟩
        exact ⟨g, hg, (groupLists_behind vid n rest).mp hlists⟩

theorem checkVidPid_iff (s : State) : checkVidPid s = true ↔ ∃ g, GroupAt s.tables.vidPid g ∧
    GroupLists s.tables.vidPid g (s.cacheByte 9 ++ s.cacheByte 8) (s.cacheByte 11 ++ s.cacheByte 10) := by
  rw [checkVidPid, vidPidIn_iff _ _ _ _ le_rfl, le16_eq_append, le16_eq_append]

/-- Settles O12: the search of the table as membership by groups. -/
theorem checkVidPidMembership : Obligations.CheckVidPidMembership := by
  intro s hfg
  refine ⟨checkVidPid s, if_pos hfg, (checkVidPid_iff s).trans ?_⟩
  exact exists_congr fun g => ⟨fun ⟨hg, hroom, hvid, k, hk⟩ => ⟨k, hg, hroom, hvid, hk⟩,
    fun ⟨k, hg, hroom, hvid, hk⟩ => ⟨hg, hroom, hvid, k, hk⟩⟩

end Sys2Proof.Machine
end

section
/-! PROOFS. The family `42_descriptor_parser.md`, CHECK_CLASS: its start and its end (rule R264, rule R271), and the
records that change no entry (rule R265). -/

namespace Sys2Proof.Machine

/-! ### The data pipes are freed (rule R264) -/

/-- What frees an allocated pipe. -/
def freeActs (p : Nat) : List Act := [.hal (.disablePipe p), .setAlloc p false, .setFrozen p true]

/-- Pipe `p` is freed if it is allocated. -/
def State.freePipe (p : Nat) (s : State) : State := s.guarded (s.pipe p).alloc (freeActs p)

/-- These pipes are freed, in order. -/
def State.freePipes : List Nat → State → State
  | [], s => s
  | p :: l, s => State.freePipes l (s.freePipe p)

/-- What freeing one pipe does to the `PIPE` table. -/
theorem State.freePipe_pipe (p q : Nat) (s : State) :
    (s.freePipe p).pipe q = if (s.pipe p).alloc = true ∧ q = p then (s.pipe p).freed else s.pipe q := by
  unfold State.freePipe State.guarded
  cases halloc : (s.pipe p).alloc with
  | false => simp
  | true =>
    by_cases hq : q = p
    · simp [freeActs, acts, act, State.setPipe_pipe, hq, Pipe.freed]
    · simp [freeActs, acts, act, State.setPipe_pipe, hq]

/-- Freeing one pipe issues its action if the pipe is allocated. -/
theorem State.freePipe_issued (p : Nat) (s : State) :
    Issued s (s.freePipe p) (if (s.pipe p).alloc then [.hal (.disablePipe p)] else []) := by
  unfold State.freePipe State.guarded
  split
  · exact State.doHal_trace (.disablePipe p) s
  · rfl

theorem State.freePipe_keptTurn {p : Nat} (hp : p ≠ 0) (s : State) : s.KeptTurn (s.freePipe p) :=
  .guarded (by simp [freeActs, Act.ofRecord, hp]) _ s

section
variable {l : List Nat}

theorem State.freePipes_keptTurn (hl : ∀ p ∈ l, p ≠ 0) (s : State) : s.KeptTurn (s.freePipes l) := by
  induction l generalizing s with
  | nil => exact .refl s
  | cons p l ih =>
    have hfirst := State.freePipe_keptTurn (hl p List.mem_cons_self) s
    exact hfirst.trans (ih (fun q hq => hl q (List.mem_cons_of_mem p hq)) _)

theorem State.freePipes_si (s : State) : (s.freePipes l).si = s.si := by
  induction l generalizing s with
  | nil => rfl
  | cons p l ih =>
    refine (ih _).trans ?_
    unfold State.freePipe State.guarded
    split <;> rfl

theorem State.freePipes_pipe_of_notMem {q : Nat} (hq : q ∉ l) (s : State) : (s.freePipes l).pipe q = s.pipe q := by
  induction l generalizing s with
  | nil => rfl
  | cons p l ih =>
    obtain ⟨hne, hrest⟩ := not_or.mp (List.mem_cons.not.mp hq)
    refine (ih hrest _).trans ?_
    rw [State.freePipe_pipe, if_neg fun h => hne h.2]

/-- No pipe is allocated once it has been freed. -/
theorem State.freePipes_alloc_of_mem {q : Nat} (hq : q ∈ l) (s : State) : ((s.freePipes l).pipe q).alloc = false := by
  induction l generalizing s with
  | nil => cases hq
  | cons p l ih =>
    by_cases hrest : q ∈ l
    · exact ih hrest _
    · obtain rfl : q = p := (List.mem_cons.mp hq).resolve_right hrest
      refine (congrArg Pipe.alloc (State.freePipes_pipe_of_notMem hrest _)).trans ?_
      rw [State.freePipe_pipe]
      cases halloc : (s.pipe q).alloc with
      | false => simpa using halloc
      | true => simp [Pipe.freed]

/-- Freeing the pipes issues one action for each of them that was allocated, in order. -/
theorem State.freePipes_issued (hl : l.Nodup) (s : State) : Issued s (s.freePipes l)
    ((l.filter fun p => (s.pipe p).alloc).map fun p => Output.hal (.disablePipe p)) := by
  induction l generalizing s with
  | nil => rfl
  | cons p l ih =>
    obtain ⟨hp, hl⟩ := List.nodup_cons.mp hl
    have hrest := ih hl (s.freePipe p)
    have hsame : l.filter (fun q => ((s.freePipe p).pipe q).alloc) = l.filter fun q => (s.pipe q).alloc := by
      refine List.filter_congr fun q hq => ?_
      have hne : ¬ ((s.pipe p).alloc = true ∧ q = p) := fun ⟨_, heq⟩ => hp (heq ▸ hq)
      rw [State.freePipe_pipe, if_neg hne]
    rw [hsame] at hrest
    have hall : Issued s (s.freePipes (p :: l)) _ := (State.freePipe_issued p s).trans hrest
    cases halloc : (s.pipe p).alloc with
    | false => simpa [halloc] using hall
    | true => simpa [halloc] using hall

theorem RunsTo.freePipes {s : State} {rest : List Micro} (hc : s.calm = true) :
    RunsTo (4 * l.length) (s.setFg (l.map .freePipe ++ rest)) ((s.freePipes l).setFg rest) := by
  induction l generalizing s with
  | nil => exact .refl _
  | cons p l ih =>
    have hfirst : RunsTo 4 (s.setFg (.freePipe p :: (l.map .freePipe ++ rest)))
        ((s.freePipe p).setFg (l.map .freePipe ++ rest)) := .onlyIf _ (freeActs p) hc rfl
    have hrest := ih (s := s.freePipe p) ((State.guarded_calm ..).trans hc)
    exact (hfirst.trans hrest).mono (by rw [List.length_cons]; omega)

end

/-! ### The start (rule R264) -/

/-- The state at the start of the record walk. -/
def State.parseStarted (s : State) : State :=
  ((s.setNsi 0).freePipes (if s.cfg.autoCfgEndpoint then s.cfg.dataPipes else [])).setParse ⟨0, none, 0⟩

/-- The bound of the record walk. -/
def State.parseBound (s : State) : Nat := min (le16 (s.cacheByte 2) (s.cacheByte 3)).toNat s.cacheLen

theorem State.parseBound_le (s : State) : s.parseBound ≤ 65535 :=
  (Nat.min_le_left _ _).trans (Nat.le_of_lt_succ (BitVec.isLt _))

theorem Config.ne_zero_of_mem_freed (c : Config) : ∀ p ∈ (if c.autoCfgEndpoint then c.dataPipes else []), p ≠ 0 := by
  intro p hp
  split at hp
  · exact Nat.ne_of_gt (Config.mem_dataPipes.mp hp).1
  · cases hp

theorem State.parseStarted_kept (s : State) : s.Kept s.parseStarted := by
  have hzero : s.Kept (s.setNsi 0) := ⟨rfl, rfl, rfl, [], rfl, rfl⟩
  have hfreed := State.freePipes_keptTurn (Config.ne_zero_of_mem_freed s.cfg) (s.setNsi 0)
  exact (hzero.trans hfreed.toKept).trans ⟨rfl, rfl, rfl, [], rfl, rfl⟩

theorem State.parseStarted_nsi (s : State) : s.parseStarted.nsi = 0 :=
  (State.freePipes_keptTurn (Config.ne_zero_of_mem_freed s.cfg) (s.setNsi 0)).nsi

theorem State.parseStarted_si (s : State) : s.parseStarted.si = s.si := State.freePipes_si (s.setNsi 0)

section
variable {s : State}

theorem State.parseStarted_of_manual (h : s.cfg.autoCfgEndpoint = false) :
    s.parseStarted = (s.setNsi 0).setParse ⟨0, none, 0⟩ := by
  rw [State.parseStarted, h]
  rfl

theorem State.parseStarted_of_auto (h : s.cfg.autoCfgEndpoint = true) :
    s.parseStarted = ((s.setNsi 0).freePipes s.cfg.dataPipes).setParse ⟨0, none, 0⟩ := by
  rw [State.parseStarted, h]
  rfl

/-- With automatic configuration no data pipe is allocated when the walk begins. -/
theorem State.parseStarted_alloc (h : s.cfg.autoCfgEndpoint = true) {p : Nat} (hp : p ∈ s.cfg.dataPipes) :
    (s.parseStarted.pipe p).alloc = false := by
  rw [State.parseStarted_of_auto h]
  exact State.freePipes_alloc_of_mem hp _

/-- A pipe that is allocated when the walk begins has not been touched. -/
theorem State.parseStarted_pipe {p : Nat} (h : (s.parseStarted.pipe p).alloc = true) :
    s.parseStarted.pipe p = s.pipe p := by
  refine State.freePipes_pipe_of_notMem (fun hp => ?_) (s.setNsi 0)
  have hfreed : (s.parseStarted.pipe p).alloc = false := State.freePipes_alloc_of_mem hp (s.setNsi 0)
  rw [hfreed] at h
  cases h

theorem State.parseStarted_issued (h : s.cfg.autoCfgEndpoint = true) : Issued s s.parseStarted
    ((s.cfg.dataPipes.filter fun p => (s.pipe p).alloc).map fun p => Output.hal (.disablePipe p)) := by
  rw [State.parseStarted_of_auto h]
  exact State.freePipes_issued List.nodup_range' (s.setNsi 0)

/-- CHECK_CLASS comes to its record walk (rule R264). -/
theorem State.Walking.parseBegin (hs : s.Walking) (hcap : s.cacheLen ≤ s.cfg.sizeofDataStage) (who : ParseFor) :
    RunsTo 1021 (s.setFg (parseProg s.cfg who)) (s.parseStarted.setFg [.parseWalk s.parseBound who]) := by
  let freed := if s.cfg.autoCfgEndpoint then s.cfg.dataPipes else []
  let fresh : List Act := [.setPendEp 0, .setCurSi none, .setParseOff 0]
  have hprog : parseProg s.cfg who =
      .act .critNsiZero :: (freed.map .freePipe ++ (actSteps fresh ++ [.parseTotal who])) := by
    simp only [parseProg, freed, fresh, List.append_assoc]
    split <;> rfl
  have hlength : freed.length ≤ 254 := by
    have hpipes := Config.nPipes_le hs.legal
    simp only [freed, Config.dataPipes]
    split
    · rw [List.length_range']
      omega
    · exact Nat.zero_le _
  have hstart := s.parseStarted_kept
  have hzero := RunsTo.straight (rest := freed.map .freePipe ++ (actSteps fresh ++ [.parseTotal who])) [.critNsiZero] hs.calm
  have hfree := RunsTo.freePipes (l := freed) (s := s.setNsi 0) (rest := actSteps fresh ++ [.parseTotal who]) hs.calm
  have hcalm : ((s.setNsi 0).freePipes freed).calm = true := (hstart.walking hs).calm
  have hfresh := RunsTo.straight (rest := [.parseTotal who]) fresh hcalm
  have hbound : min (le16 (s.parseStarted.cacheByte 2) (s.parseStarted.cacheByte 3)).toNat s.parseStarted.cacheLen =
      s.parseBound := by
    simp only [State.cacheByte, hstart.cache, hstart.cacheLen, State.parseBound]
  have hfits : ¬ s.parseStarted.cfg.sizeofDataStage < s.parseBound := by
    rw [hstart.cfg]
    exact Nat.not_lt.mpr ((Nat.min_le_right _ _).trans hcap)
  have htotal : RunsTo 1 (s.parseStarted.setFg [.parseTotal who])
      (s.parseStarted.setFg [.parseWalk s.parseBound who]) := by
    refine .goOn _ (hstart.walking hs).calm ?_
    rw [← hbound] at hfits ⊢
    exact if_neg hfits
  rw [hprog]
  refine (((hzero.trans hfree).trans hfresh).trans htotal).mono ?_
  simp only [fresh, List.length_cons, List.length_nil]
  omega

end

/-! ### The end (rule R271) -/

/-- CHECK_CLASS has returned its result. -/
def State.classReturned (s : State) : State := (s.setResBool (decide (0 < s.nsi))).setFg []

@[simp] theorem State.classReturned_res (s : State) :
    s.classReturned.res = { s.res with bool := decide (0 < s.nsi) } := rfl
@[simp] theorem State.classReturned_pipe (s : State) (p : Nat) : s.classReturned.pipe p = s.pipe p := rfl

/-- A run that comes to the return is the whole of CHECK_CLASS. -/
theorem exec_checkClass {s t : State} {k : Nat} (hfg : s.fg = [])
    (h : RunsTo k (s.setFg (parseProg s.cfg .command)) (t.setFg [.parseReturn .command])) (hc : t.calm = true)
    (hk : k + 2 ≤ burst) : exec .checkClass s = .next t.classReturned := by
  have hreturn : RunsTo 2 (t.setFg [.parseReturn .command]) t.classReturned :=
    .choice [.resBool (decide (0 < t.nsi))] hc rfl
  exact (if_pos hfg).trans ((h.trans hreturn).run_eq hk rfl)

theorem Quiet.walking {s : State} (h : Quiet s) (hlegal : s.cfg.legal = true) : s.Walking := by
  obtain ⟨-, hin, hplan⟩ := h
  exact ⟨State.calm_nil hin, hlegal, hplan⟩

end Sys2Proof.Machine
end

section
/-! PROOFS. The family `42_descriptor_parser.md`, CHECK_CLASS: one turn of the record walk at a record that changes no
entry (rule R265), and a walk that finds no registered triple (rule R267). -/

namespace Sys2Proof.Machine

/-! ### The record the walk stands at -/

/-- The length of the record at `P_OFF`. -/
def State.recordLen (s : State) : Nat := (s.cacheByte s.parse.off).toNat

/-- The type of the record at `P_OFF`. -/
def State.recordTyp (s : State) : Nat := (s.cacheByte (s.parse.off + 1)).toNat

/-- The record at `P_OFF` ends within the descriptor of `total` bytes. -/
def State.RecordFits (total : Nat) (s : State) : Prop := 2 ≤ s.recordLen ∧ s.parse.off + s.recordLen ≤ total

/-- The record at `P_OFF` is reported (rule R266). -/
def State.hooked (s : State) : State := s.emit (.hook s.parse.off)

/-- An INTERFACE record begins: no entry waits for its endpoints any more (rule R267). -/
def State.ifaceBegun (s : State) : State := s.hooked.setParse ⟨0, none, s.parse.off⟩

/-- A record that changes no entry has been passed; after an INTERFACE record there is no current entry (rule R267). -/
def State.passed (s : State) : State :=
  s.hooked.setParse ⟨0, if s.recordTyp = 4 then none else s.parse.curSi, s.parse.off + s.recordLen⟩

theorem State.hooked_kept (s : State) : s.Kept s.hooked := ⟨rfl, rfl, rfl, [_], rfl, rfl⟩
theorem State.ifaceBegun_kept (s : State) : s.Kept s.ifaceBegun := ⟨rfl, rfl, rfl, [_], rfl, rfl⟩
theorem State.passed_kept (s : State) : s.Kept s.passed := ⟨rfl, rfl, rfl, [_], rfl, rfl⟩

section
variable {total : Nat} {who : ParseFor} {s : State}

/-- No record that fits: the walk ends (rule R265). -/
theorem State.Walking.stop (hs : s.Walking) (h : ¬ s.RecordFits total) :
    RunsTo 1 (s.setFg [.parseWalk total who]) (s.setFg [.parseEnd who]) := by
  refine .goOn [.parseEnd who] hs.calm ?_
  by_cases hhead : s.parse.off + 2 ≤ total
  · have hbad : s.recordLen < 2 ∨ total < s.parse.off + s.recordLen := by
      unfold State.RecordFits at h
      omega
    exact (if_pos hhead).trans (if_pos hbad)
  · exact if_neg hhead

/-- At a record that fits, its hook comes first (rule R266). -/
theorem State.Walking.hook (hs : s.Walking) (h : s.RecordFits total) :
    RunsTo 2 (s.setFg [.parseWalk total who]) (s.hooked.setFg [.parseRecord s.recordLen s.recordTyp total who]) := by
  obtain ⟨hlen, hfit⟩ := h
  let record : List Micro := [.parseRecord s.recordLen s.recordTyp total who]
  have hhead : s.parse.off + 2 ≤ total := by omega
  have hgood : ¬ (s.recordLen < 2 ∨ total < s.parse.off + s.recordLen) := by omega
  have hturn : micro (.parseWalk total who) (s.setFg []) = Machine.thenDo (.hook s.parse.off :: record) (s.setFg []) :=
    (if_pos hhead).trans (if_neg hgood)
  have hnotify : micro (.hook s.parse.off) (s.setFg record) = .ran (s.hooked.setFg record) := by
    have hplan : ((s.setFg record).emit (.hook s.parse.off)).plan = [] := hs.plan
    simp only [micro, notifyFg, hplan]
    rfl
  exact (RunsTo.goOn _ hs.calm hturn).trans (.of_micro hs.calm rfl hnotify hs.calm)

/-- Endpoints no longer pending leave the current entry as it is. -/
theorem RunsTo.ifacePending {rest : List Micro} (hc : s.calm = true) (hpend : s.parse.pendEp = 0) :
    RunsTo 1 (s.setFg (.ifacePending :: rest)) (s.setFg rest) := by
  refine .skip hc le_rfl ?_
  simp only [micro, Machine.ifacePending, State.setFg_parse, hpend]
  cases s.parse.curSi <;> rfl

/-- An INTERFACE record up to its match (rule R267). -/
theorem State.Walking.ifaceBegin (hs : s.Walking) (h : s.RecordFits total) (htyp : s.recordTyp = 4)
    (hpend : s.parse.pendEp = 0) :
    RunsTo 6 (s.setFg [.parseWalk total who]) (s.ifaceBegun.setFg [.ifaceMatch s.recordLen total who]) := by
  let fresh : List Act := [.setPendEp 0, .setCurSi none]
  let rest : List Micro := actSteps fresh ++ [.ifaceMatch s.recordLen total who]
  have hrecord := RunsTo.goOn (s := s.hooked) (m := .parseRecord s.recordLen s.recordTyp total who) (.ifacePending :: rest)
    hs.calm (if_pos htyp)
  have hpending := RunsTo.ifacePending (s := s.hooked) (rest := rest) hs.calm hpend
  exact (((hs.hook h).trans hrecord).trans hpending).trans (.straight fresh hs.calm)

/-- An ENDPOINT record with no endpoint pending changes nothing (rule R269). -/
theorem RunsTo.endpointIgnored {len : Nat} {rest : List Micro} (hc : s.calm = true) (hpend : s.parse.pendEp = 0) :
    RunsTo 1 (s.setFg (.endpoint len :: rest)) (s.setFg rest) := by
  refine .skip hc le_rfl ?_
  simp only [micro, Machine.endpoint, State.setFg_parse, hpend]
  cases s.parse.curSi with
  | none => rfl
  | some i => simp [Machine.onlyIf]

/-- A record is passed: one that is skipped, an endpoint that none waits for, or an interface that is not registered. -/
theorem State.Walking.pass (hs : s.Walking) (h : s.RecordFits total) (hpend : s.parse.pendEp = 0)
    (hiface : s.recordTyp = 4 → s.nsi ≠ s.cfg.maxInterface ∧ ¬ (9 ≤ s.recordLen ∧ classMatch s s.parse.off = true)) :
    RunsTo 8 (s.setFg [.parseWalk total who]) (s.passed.setFg [.parseWalk total who]) := by
  let move : List Micro := [.act (.moveParseOff s.recordLen), .parseWalk total who]
  have hhook := hs.hook (who := who) h
  have hgo (ms : List Micro) :=
    RunsTo.goOn (s := s.hooked) (m := .parseRecord s.recordLen s.recordTyp total who) ms hs.calm
  by_cases hi : s.recordTyp = 4
  · obtain ⟨hroom, hnone⟩ := hiface hi
    have hmatch := RunsTo.goOn (s := s.ifaceBegun) (m := .ifaceMatch s.recordLen total who) move hs.calm
      ((if_neg hroom).trans (if_neg hnone))
    have hmove : RunsTo 1 (s.ifaceBegun.setFg move) _ :=
      .straight (rest := [.parseWalk total who]) [.moveParseOff s.recordLen] hs.calm
    have hpassed : acts [.moveParseOff s.recordLen] s.ifaceBegun = s.passed := by
      rw [State.passed, if_pos hi]
      rfl
    exact hpassed ▸ ((hs.ifaceBegin h hi hpend).trans hmatch).trans hmove
  · have hmove : RunsTo 1 (s.hooked.setFg move) _ :=
      .straight (rest := [.parseWalk total who]) [.moveParseOff s.recordLen] hs.calm
    have hpassed : acts [.moveParseOff s.recordLen] s.hooked = s.passed := by
      rw [State.passed, if_neg hi, ← hpend]
      rfl
    rw [← hpassed]
    by_cases he : s.recordTyp = 5
    · have hignored := RunsTo.endpointIgnored (s := s.hooked) (len := s.recordLen) (rest := move) hs.calm hpend
      exact (((hhook.trans (hgo _ ((if_neg hi).trans (if_pos he)))).trans hignored).trans hmove).mono (by decide)
    · exact ((hhook.trans (hgo _ ((if_neg hi).trans (if_neg he)))).trans hmove).mono (by decide)

/-- The end of the walk with no endpoint pending (rule R271). -/
theorem State.Walking.finish (hs : s.Walking) (hpend : s.parse.pendEp = 0) :
    RunsTo 2 (s.setFg [.parseEnd who]) (s.setFg [.parseReturn who]) :=
  (RunsTo.goOn (m := .parseEnd who) [.ifacePending, .parseReturn who] hs.calm rfl).trans (.ifacePending hs.calm hpend)

/-- A walk past records of which none is registered changes no entry and no pipe (rule R267). -/
theorem State.Walking.walkPast (hs : s.Walking) (hpend : s.parse.pendEp = 0) (hroom : s.nsi ≠ s.cfg.maxInterface)
    (hnone : ∀ off, classMatch s off = false) :
    ∃ t : State, t.Walking ∧ t.parse.pendEp = 0 ∧ t.nsi = s.nsi ∧ t.si = s.si ∧ t.pipes = s.pipes ∧
      RunsTo (8 * (total - s.parse.off) + 1) (s.setFg [.parseWalk total who]) (t.setFg [.parseEnd who]) := by
  induction hleft : total - s.parse.off using Nat.strong_induction_on generalizing s with
  | _ left ih =>
    by_cases hfits : s.RecordFits total
    · obtain ⟨hlen, hend⟩ := id hfits
      have hunmatched : ¬ (9 ≤ s.recordLen ∧ classMatch s s.parse.off = true) := by simp [hnone]
      have hturn := hs.pass (who := who) hfits hpend fun _ => ⟨hroom, hunmatched⟩
      have hoff : s.passed.parse.off = s.parse.off + s.recordLen := rfl
      obtain ⟨t, ht, hzero, hnsi, hsi, hpipes, hrest⟩ := ih (total - s.passed.parse.off) (by rw [hoff]; omega)
        (s.passed_kept.walking hs) rfl hroom hnone rfl
      refine ⟨t, ht, hzero, hnsi, hsi, hpipes, (hturn.trans hrest).mono ?_⟩
      rw [hoff]
      omega
    · exact ⟨s, hs, hpend, rfl, rfl, rfl, (hs.stop hfits).mono (by omega)⟩

end

/-- CHECK_CLASS whose walk comes to its end with no endpoint pending (rule R271). -/
theorem State.Walking.exec_checkClass {s t : State} {k : Nat} (hfg : s.fg = []) (ht : t.Walking) (hpend : t.parse.pendEp = 0)
    (h : RunsTo k (s.setFg (parseProg s.cfg .command)) (t.setFg [.parseEnd .command])) (hk : k + 4 ≤ burst) :
    exec .checkClass s = .next t.classReturned :=
  Machine.exec_checkClass hfg (h.trans (ht.finish hpend)) ht.calm hk

theorem Config.one_le_maxInterface {c : Config} (h : c.legal = true) : 1 ≤ c.maxInterface := by
  simp only [Config.legal, Bool.and_eq_true, decide_eq_true_eq] at h
  omega

/-- Settles O14: nothing but the parser's registers and the outputs changes once the data pipes are freed. -/
theorem checkClassNoMatch : Obligations.CheckClassNoMatch := by
  intro s hq hlegal hcap hnone
  have hs := hq.walking hlegal
  have hkept := s.parseStarted_kept
  have hroom : s.parseStarted.nsi ≠ s.parseStarted.cfg.maxInterface := by
    rw [State.parseStarted_nsi, hkept.cfg]
    exact Nat.ne_of_lt (Config.one_le_maxInterface hlegal)
  have hmatch (off : Nat) : classMatch s.parseStarted off = false := by
    have htables : s.parseStarted.tables = s.tables := (congrArg State.tables hkept.outside :)
    simp only [classMatch, State.cacheByte, hkept.cache, htables]
    exact Bool.eq_false_iff.mpr fun h => hnone off (List.contains_iff_mem.mp h)
  obtain ⟨t, ht, hpend, hnsi, hsi, hpipes, hwalk⟩ :=
    (hkept.walking hs).walkPast (total := s.parseBound) (who := .command) rfl hroom hmatch
  have hk : 1021 + (8 * (s.parseBound - s.parseStarted.parse.off) + 1) + 4 ≤ burst := by
    have hbound := s.parseBound_le
    simp only [burst]
    omega
  have hpipe (p : Nat) : t.classReturned.pipe p = s.parseStarted.pipe p := by
    rw [State.classReturned_pipe, State.pipe, hpipes, State.pipe]
  have hzero : t.nsi = 0 := hnsi.trans s.parseStarted_nsi
  refine ⟨t.classReturned, ht.exec_checkClass hq.1 hpend ((hs.parseBegin hcap .command).trans hwalk) hk, ?_, hzero,
    hsi.trans s.parseStarted_si, fun p halloc => ?_, fun hauto p hone hp => ?_⟩
  · rw [State.classReturned_res, hzero]
    rfl
  · rw [hpipe] at halloc ⊢
    exact State.parseStarted_pipe halloc
  · rw [hpipe]
    exact State.parseStarted_alloc hauto (Config.mem_dataPipes.mpr ⟨hone, hp⟩)

end Sys2Proof.Machine
end

section
/-! PROOFS. The family `42_descriptor_parser.md`, CHECK_CLASS: a registered INTERFACE record and the ENDPOINT records that
follow it (rule R267 to rule R270). -/

namespace Sys2Proof.Machine

/-! ### The entry of a registered INTERFACE record (rule R267) -/

theorem State.setIface_setIface (s : State) (i : Nat) (f g : Iface) : (s.setIface i f).setIface i g = s.setIface i g := by
  simp only [State.setIface, State.setSi_si, tableSet_tableSet]
  rfl

theorem State.setParse_setParse (s : State) (r r' : ParseRegs) : (s.setParse r).setParse r' = s.setParse r' := rfl

/-- The fields that a match writes, in order. -/
def entryFields (s : State) (off : Nat) : List SiField :=
  .ifnum (s.cacheByte (off + 2)) :: .alt (s.cacheByte (off + 3)) :: .cls (s.cacheByte (off + 5)) ::
  .subclass (s.cacheByte (off + 6)) :: .protocol (s.cacheByte (off + 7)) ::
  .nbEp (min (s.cacheByte (off + 4)).toNat s.cfg.maxEp) ::
  ((List.range s.cfg.maxEp).map (fun e => SiField.pipe e noPipe) ++ [SiField.configured false])

/-- The entry that a match makes of entry `old`. -/
def State.entryAt (s : State) (off : Nat) (old : Iface) : Iface where
  ifnum := s.cacheByte (off + 2)
  alt := s.cacheByte (off + 3)
  cls := s.cacheByte (off + 5)
  subclass := s.cacheByte (off + 6)
  protocol := s.cacheByte (off + 7)
  nbEp := min (s.cacheByte (off + 4)).toNat s.cfg.maxEp
  pipe := (List.range s.cfg.maxEp).foldl (fun l e => tableSet noPipe l e noPipe) old.pipe
  configured := false

theorem foldl_set_noPipe (l : List Nat) (f : Iface) :
    (l.map fun e => SiField.pipe e noPipe).foldl (fun x v => x.set v) f =
      { f with pipe := l.foldl (fun l e => tableSet noPipe l e noPipe) f.pipe } := by
  induction l generalizing f with
  | nil => rfl
  | cons e l ih => exact ih _

theorem foldl_set_entryFields (s : State) (off : Nat) (old : Iface) :
    (entryFields s off).foldl (fun x v => x.set v) old = s.entryAt off old := by
  simp only [entryFields, List.foldl_cons, List.foldl_append, foldl_set_noPipe]
  rfl

/-- Writing the fields of an entry one after another. -/
theorem acts_setSi (i : Nat) (l : List SiField) (f : Iface) (s : State) :
    acts (l.map (Act.setSi i)) (s.setIface i f) = s.setIface i (l.foldl (fun x v => x.set v) f) := by
  induction l generalizing f with
  | nil => rfl
  | cons v l ih =>
    have hfirst : act (.setSi i v) (s.setIface i f) = s.setIface i (f.set v) := by
      rw [act, State.setIface_setIface, State.setIface_iface, if_pos rfl]
    rw [List.map_cons, acts, hfirst, ih]
    rfl

/-- A match writes its entry and counts it. -/
theorem acts_ifaceActs (s u : State) (i off : Nat) :
    acts (ifaceActs s i off) u = (u.setIface i (s.entryAt off (u.iface i))).setNsi (u.nsi + 1) := by
  have hfields : ifaceActs s i off = (entryFields s off).map (Act.setSi i) ++ [.critNsiInc] := by
    simp [ifaceActs, entryFields]
  rw [hfields, acts_append, ← foldl_set_entryFields]
  exact congrArg (act .critNsiInc) (acts_setSi i _ ((u.iface i).set _) u)

theorem getD_foldl_noPipe (l : List Nat) (t : List Byte) {e : Nat} (h : e ∈ l ∨ t.getD e noPipe = noPipe) :
    (l.foldl (fun l e => tableSet noPipe l e noPipe) t).getD e noPipe = noPipe := by
  induction l generalizing t with
  | nil => exact h.resolve_left List.not_mem_nil
  | cons x l ih =>
    refine ih _ ?_
    rw [tableSet_getD]
    by_cases hx : e = x
    · exact .inr (if_pos hx)
    · rw [if_neg hx]
      exact h.imp_left fun hmem => (List.mem_cons.mp hmem).resolve_left hx

/-- No endpoint of a new entry has a pipe. -/
theorem State.entryAt_slot (s : State) (off : Nat) (old : Iface) {e : Nat} (he : e < s.cfg.maxEp) :
    (s.entryAt off old).pipe.getD e noPipe = noPipe := getD_foldl_noPipe _ _ (.inl (List.mem_range.mpr he))

/-! ### An INTERFACE record that is registered -/

/-- The entry that the INTERFACE record at `P_OFF` makes when it is registered. -/
def State.newEntry (s : State) : Iface := s.entryAt s.parse.off (s.iface s.nsi)

/-- An INTERFACE record has been recorded; with automatic configuration its entry waits for its endpoints. -/
def State.recorded (s : State) : State :=
  ((s.ifaceBegun.setIface s.nsi s.newEntry).setNsi (s.nsi + 1)).setParse
    (if s.cfg.autoCfgEndpoint then ⟨s.newEntry.nbEp, some s.nsi, s.parse.off + s.recordLen⟩
    else ⟨0, none, s.parse.off + s.recordLen⟩)

theorem State.Kept.setIface {s t : State} (h : s.Kept t) (i : Nat) (f : Iface) : s.Kept (t.setIface i f) :=
  h.trans ⟨rfl, rfl, rfl, [], rfl, rfl⟩

theorem State.Kept.setNsi {s t : State} (h : s.Kept t) (n : Nat) : s.Kept (t.setNsi n) :=
  h.trans ⟨rfl, rfl, rfl, [], rfl, rfl⟩

theorem State.Kept.setParse {s t : State} (h : s.Kept t) (r : ParseRegs) : s.Kept (t.setParse r) :=
  h.trans ⟨rfl, rfl, rfl, [], rfl, rfl⟩

theorem State.recorded_kept (s : State) : s.Kept s.recorded :=
  ((s.ifaceBegun_kept.setIface _ _).setNsi _).setParse _

theorem ifaceActs_length_le {s : State} (hlegal : s.cfg.legal = true) (i off : Nat) :
    (ifaceActs s i off).length ≤ 263 := by
  obtain ⟨l, hl, hlen, -⟩ := ifaceActs_eq s i off
  have hmaxEp := Config.maxEp_le hlegal
  rw [hl, List.length_append, hlen, List.length_singleton]
  omega

/-- The parser's registers once entry `i` has been made: with automatic configuration it waits for its endpoints. -/
def State.waitRegs (i : Nat) (s : State) : ParseRegs :=
  if s.cfg.autoCfgEndpoint then ⟨(s.iface i).nbEp, some i, s.parse.off⟩ else s.parse

/-- The new entry of an interface with endpoints waits for them with automatic configuration (rule R267). -/
theorem RunsTo.ifaceAuto {s : State} {i : Nat} {rest : List Micro} (hc : s.calm = true) (hsome : (s.iface i).nbEp ≠ 0) :
    RunsTo 4 (s.setFg (.ifaceAuto i :: rest)) ((s.setParse (s.waitRegs i)).setFg rest) := by
  unfold State.waitRegs
  cases hauto : s.cfg.autoCfgEndpoint with
  | false =>
    rw [if_neg Bool.false_ne_true]
    refine RunsTo.skip hc (by decide) ?_
    simp only [micro, Machine.ifaceAuto, Machine.onlyIf, State.setFg_cfg, hauto]
    rfl
  | true =>
    rw [if_pos rfl]
    let wait : List Act := [.setCurSi (some i), .setPendEp (s.iface i).nbEp]
    let u := s.setParse ⟨(s.iface i).nbEp, some i, s.parse.off⟩
    have hm : micro (.ifaceAuto i) (s.setFg rest) = Machine.thenDo (actSteps wait ++ [.ifaceEmpty i]) (s.setFg rest) := by
      simp only [micro, Machine.ifaceAuto, Machine.onlyIf, State.setFg_cfg, hauto]
      rfl
    have hwait : RunsTo 2 (s.setFg (actSteps wait ++ .ifaceEmpty i :: rest)) (u.setFg (.ifaceEmpty i :: rest)) :=
      .straight wait hc
    have hempty : RunsTo 1 (u.setFg (.ifaceEmpty i :: rest)) (u.setFg rest) := by
      refine .skip hc le_rfl ?_
      simp [micro, Machine.onlyIf, u, hsome]
    exact ((RunsTo.thenDo _ hc hm).trans hwait).trans hempty

section
variable {total : Nat} {who : ParseFor} {s : State}

/-- A registered INTERFACE record of an interface with endpoints, in a table with room (rule R267). -/
theorem State.Walking.record (hs : s.Walking) (h : s.RecordFits total) (htyp : s.recordTyp = 4)
    (hpend : s.parse.pendEp = 0) (hroom : s.nsi ≠ s.cfg.maxInterface)
    (hmatch : 9 ≤ s.recordLen ∧ classMatch s s.parse.off = true) (hsome : s.newEntry.nbEp ≠ 0) :
    RunsTo 290 (s.setFg [.parseWalk total who]) (s.recorded.setFg [.parseWalk total who]) := by
  let move : List Micro := [.act (.moveParseOff s.recordLen), .parseWalk total who]
  let l := ifaceActs s s.nsi s.parse.off
  let u := (s.ifaceBegun.setIface s.nsi s.newEntry).setNsi (s.nsi + 1)
  let v := u.setParse (u.waitRegs s.nsi)
  have hgo := RunsTo.goOn (s := s.ifaceBegun) (m := .ifaceMatch s.recordLen total who)
    (actSteps l ++ .ifaceAuto s.nsi :: move) hs.calm ((if_neg hroom).trans (if_pos hmatch))
  have hwrite := RunsTo.straight (s := s.ifaceBegun) (rest := .ifaceAuto s.nsi :: move) l hs.calm
  have hu : acts l s.ifaceBegun = u := acts_ifaceActs ..
  rw [hu] at hwrite
  have hc : u.calm = true := State.calm_of_inputs rfl hs.calm
  have hentry : u.iface s.nsi = s.newEntry := (State.setIface_iface ..).trans (if_pos rfl)
  have hauto : RunsTo 4 (u.setFg (.ifaceAuto s.nsi :: move)) (v.setFg move) := .ifaceAuto hc (by rwa [hentry])
  have hmove := RunsTo.straight (s := v) (rest := [.parseWalk total who]) [.moveParseOff s.recordLen] hc
  have hrecorded : acts [.moveParseOff s.recordLen] v = s.recorded := by
    have hcfg : u.cfg = s.cfg := rfl
    have hparse : u.parse = ⟨0, none, s.parse.off⟩ := rfl
    simp only [acts, act, v, State.setParse_parse, State.setParse_setParse, State.recorded, State.waitRegs, hentry, hcfg,
      hparse]
    split <;> rfl
  rw [hrecorded] at hmove
  have hlength : l.length ≤ 263 := ifaceActs_length_le hs.legal s.nsi s.parse.off
  have hall := ((hs.ifaceBegin h htyp hpend).trans hgo).trans ((hwrite.trans hauto).trans hmove)
  exact hall.mono (by rw [List.length_singleton]; omega)

end

/-! ### An ENDPOINT record of the current entry (rule R269, rule R270) -/

/-- The pipe that the ENDPOINT record at `P_OFF` gets, if it gets one. -/
def State.chosen (s : State) : Option Nat := choosePipe s (recordPipe s s.parse.off).mps

/-- What an entry's slot holds of the pipe an endpoint got (rule R269). -/
def slotByte (o : Option Nat) : Byte := o.elim noPipe (BitVec.ofNat 8)

/-- The pipe an endpoint got is configured as `r` says. -/
def State.allocated (o : Option Nat) (r : Pipe) (s : State) : State :=
  match o with
  | none => s
  | some p => (s.setPipe p r).doHal (.configurePipe p r.typ r.dirIn r.ep r.mps r.banks r.interval)

/-- Entry `i` after the ENDPOINT record at `P_OFF`, the last of them deciding whether it is configured (rule R269). -/
def State.pipedEntry (i : Nat) (s : State) : Iface :=
  let f := (s.iface i).set (.pipe ((s.iface i).nbEp - s.parse.pendEp) (slotByte s.chosen))
  if s.parse.pendEp - 1 = 0 then f.set (.configured f.allPiped) else f

/-- The ENDPOINT record at `P_OFF` has been taken for entry `i`. -/
def State.piped (i : Nat) (s : State) : State :=
  ((s.hooked.allocated s.chosen (recordPipe s s.parse.off)).setIface i (s.pipedEntry i)).setParse
    ⟨s.parse.pendEp - 1, some i, s.parse.off + s.recordLen⟩

section
variable (o : Option Nat) (r : Pipe) (s : State)

@[simp] theorem State.allocated_nsi : (s.allocated o r).nsi = s.nsi := by cases o <;> rfl
@[simp] theorem State.allocated_parse : (s.allocated o r).parse = s.parse := by cases o <;> rfl
@[simp] theorem State.allocated_iface (i : Nat) : (s.allocated o r).iface i = s.iface i := by cases o <;> rfl
@[simp] theorem State.allocated_calm : (s.allocated o r).calm = s.calm := by cases o <;> rfl

end

section
variable {total : Nat} {who : ParseFor} {s : State}

/-- `AllocPipe` and the slot it fills (rule R269, rule R270). -/
theorem acts_allocSteps (i e off : Nat) (u : State) (o : Option Nat) (ho : choosePipe s (recordPipe s off).mps = o) :
    acts (allocSteps s i e off) u =
      (u.allocated o (recordPipe s off)).setIface i ((u.iface i).set (.pipe e (slotByte o))) := by
  subst ho
  cases h : choosePipe s (recordPipe s off).mps with
  | none =>
    simp only [allocSteps, h]
    rfl
  | some p =>
    simp only [allocSteps, h]
    rfl

/-- The last endpoint of an entry decides whether the entry is configured (rule R269). -/
theorem RunsTo.endpointDone {rest : List Micro} (i : Nat) (f : Iface) (hc : s.calm = true) :
    RunsTo 2 ((s.setIface i f).setFg (.endpointDone i :: rest))
      ((s.setIface i (if s.parse.pendEp = 0 then f.set (.configured f.allPiped) else f)).setFg rest) := by
  have hf : (s.setIface i f).iface i = f := (State.setIface_iface ..).trans (if_pos rfl)
  have hdone : RunsTo 2 ((s.setIface i f).setFg (.endpointDone i :: rest)) _ :=
    .onlyIf (decide (s.parse.pendEp = 0)) [.setSi i (.configured ((s.setIface i f).iface i).allPiped)] hc rfl
  rw [hf] at hdone
  by_cases hlast : s.parse.pendEp = 0
  · have hset : act (.setSi i (.configured f.allPiped)) (s.setIface i f) =
        s.setIface i (f.set (.configured f.allPiped)) := by
      rw [act, hf, State.setIface_setIface]
    rw [decide_eq_true hlast] at hdone
    rw [if_pos hlast, ← hset]
    exact hdone
  · rw [decide_eq_false hlast] at hdone
    rw [if_neg hlast]
    exact hdone

/-- An ENDPOINT record that the current entry waits for (rule R269). -/
theorem State.Walking.endpoint (hs : s.Walking) (h : s.RecordFits total) (htyp : s.recordTyp = 5) (hlen : 7 ≤ s.recordLen)
    {i : Nat} (hcur : s.parse.curSi = some i) (hpend : 0 < s.parse.pendEp) (hauto : s.cfg.autoCfgEndpoint = true) :
    RunsTo 12 (s.setFg [.parseWalk total who]) ((s.piped i).setFg [.parseWalk total who]) := by
  let move : List Micro := [.act (.moveParseOff s.recordLen), .parseWalk total who]
  let l := allocSteps s i ((s.iface i).nbEp - s.parse.pendEp) s.parse.off ++ [.decPendEp]
  let f := (s.iface i).set (.pipe ((s.iface i).nbEp - s.parse.pendEp) (slotByte s.chosen))
  let x := (s.hooked.allocated s.chosen (recordPipe s s.parse.off)).setParse ⟨s.parse.pendEp - 1, some i, s.parse.off⟩
  have hgo := RunsTo.goOn (s := s.hooked) (m := .parseRecord s.recordLen s.recordTyp total who)
    (.endpoint s.recordLen :: move) hs.calm (by simp only [micro, parseRecord, htyp]; rfl)
  have hm : micro (.endpoint s.recordLen) (s.hooked.setFg move) =
      Machine.thenDo (actSteps l ++ [.endpointDone i]) (s.hooked.setFg move) := by
    have hguard : (s.cfg.autoCfgEndpoint && decide (0 < s.parse.pendEp) && decide (7 ≤ s.recordLen)) = true := by
      simp [hauto, hpend, hlen]
    have hc : s.hooked.parse.curSi = some i := hcur
    simp only [micro, Machine.endpoint, State.setFg_parse, hc]
    exact congrArg (Machine.onlyIf · _ _) hguard
  have htest := RunsTo.thenDo (s := s.hooked) _ hs.calm hm
  rw [List.append_assoc] at htest
  have hwrite := RunsTo.straight (s := s.hooked) (rest := .endpointDone i :: move) l hs.calm
  have hu : acts l s.hooked = x.setIface i f := by
    rw [acts_append, acts_allocSteps i _ _ s.hooked s.chosen rfl]
    simp only [acts, act, State.setIface_parse, State.allocated_parse, x, ← hcur]
    rfl
  rw [hu] at hwrite
  have hlength : l.length ≤ 4 := by
    obtain ⟨hsteps, -⟩ := allocSteps_ofRecord (s := s) hs.legal i ((s.iface i).nbEp - s.parse.pendEp) s.parse.off
    rw [List.length_append, List.length_singleton]
    omega
  have hc : x.calm = true := (State.allocated_calm ..).trans hs.calm
  let y := x.setIface i (s.pipedEntry i)
  have hdone : RunsTo 2 ((x.setIface i f).setFg (.endpointDone i :: move)) (y.setFg move) := .endpointDone i f hc
  have hmove : RunsTo 1 (y.setFg move) ((act (.moveParseOff s.recordLen) y).setFg [.parseWalk total who]) :=
    .straight (rest := [.parseWalk total who]) [.moveParseOff s.recordLen] hc
  have hall := (((hs.hook h).trans hgo).trans htest).trans ((hwrite.trans hdone).trans hmove)
  exact hall.mono (by omega)

end

/-! ### What the two kinds of record leave -/

section
variable (s : State)

@[simp] theorem State.recorded_nsi : s.recorded.nsi = s.nsi + 1 := by simp [State.recorded]

theorem State.recorded_iface (k : Nat) : s.recorded.iface k = if k = s.nsi then s.newEntry else s.iface k := by
  rw [State.recorded, State.setParse_iface, State.setNsi_iface, State.setIface_iface]
  rfl

@[simp] theorem State.recorded_pipes : s.recorded.pipes = s.pipes := by
  simp [State.recorded, State.ifaceBegun, State.hooked]

theorem State.recorded_issued : Issued s s.recorded [.hook s.parse.off] := by
  simp [Issued, State.recorded, State.ifaceBegun, State.hooked]

@[simp] theorem State.passed_iface (k : Nat) : s.passed.iface k = s.iface k := rfl
@[simp] theorem State.passed_pipes : s.passed.pipes = s.pipes := rfl

theorem State.passed_issued : Issued s s.passed [.hook s.parse.off] := rfl

variable (i : Nat)

@[simp] theorem State.piped_nsi : (s.piped i).nsi = s.nsi := by simp [State.piped, State.hooked]

@[simp] theorem State.piped_parse :
    (s.piped i).parse = ⟨s.parse.pendEp - 1, some i, s.parse.off + s.recordLen⟩ := by simp [State.piped]

theorem State.piped_iface (k : Nat) : (s.piped i).iface k = if k = i then s.pipedEntry i else s.iface k := by
  rw [State.piped, State.setParse_iface, State.setIface_iface, State.allocated_iface]
  rfl

end

section
variable {s : State} {p : Nat}

/-- The chosen pipe gets the endpoint's record, no other pipe changes (rule R270). -/
theorem State.piped_pipe (i : Nat) (h : s.chosen = some p) (q : Nat) :
    (s.piped i).pipe q = if q = p then recordPipe s s.parse.off else s.pipe q := by
  rw [State.piped, h, State.setParse_pipe, State.setIface_pipe, State.allocated, State.doHal_pipe, State.setPipe_pipe]
  rfl

/-- The hook of the record, then the configuration of the chosen pipe (rule R266, rule R270). -/
theorem State.piped_issued (i : Nat) (h : s.chosen = some p) :
    Issued s (s.piped i) [.hook s.parse.off, configured p (recordPipe s s.parse.off)] := by
  rw [State.piped, h]
  rfl

theorem State.allocated_kept {o : Option Nat} (ho : ∀ p, o = some p → p ≠ 0) (r : Pipe) (s : State) :
    s.Kept (s.allocated o r) := by
  cases o with
  | none => exact .refl s
  | some p =>
    have hp := ho p rfl
    have hconfigure : (Act.hal (.configurePipe p r.typ r.dirIn r.ep r.mps r.banks r.interval)).ofRecord = true :=
      decide_eq_true hp
    exact ((State.KeptTurn.setPipe hp r s).trans (.act hconfigure _)).toKept

theorem State.piped_kept (hlegal : s.cfg.legal = true) (i : Nat) : s.Kept (s.piped i) := by
  have hchosen : ∀ p, s.chosen = some p → p ≠ 0 := fun _ => choosePipe_ne_zero hlegal
  exact ((s.hooked_kept.trans (State.allocated_kept hchosen _ _)).setIface _ _).setParse _

end

end Sys2Proof.Machine
end

section
/-! PROOFS. The family `42_descriptor_parser.md`, CHECK_CLASS: every content of `CACHE`, and a descriptor of two interfaces
of which the first alone is registered (rule R273). -/

namespace Sys2Proof.Machine

/-! ### The walk reads the descriptor it began with -/

section
variable {s t : State} (h : s.Kept t)
include h

theorem State.Kept.tables : t.tables = s.tables :=
  (congrArg State.tables h.outside :)

theorem State.Kept.cacheByte (k : Nat) : t.cacheByte k = s.cacheByte k := congrArg (Memory.read · k) h.cache

theorem State.Kept.classMatch (off : Nat) : classMatch t off = classMatch s off := by
  simp only [Machine.classMatch, h.tables, h.cacheByte]

theorem State.Kept.entryAt (off : Nat) (f : Iface) : t.entryAt off f = s.entryAt off f := by
  simp only [State.entryAt, h.cfg, h.cacheByte]

theorem State.Kept.recordPipe (off : Nat) : recordPipe t off = recordPipe s off := by
  simp only [Machine.recordPipe, h.cacheByte]

end

theorem classMatch_iff {s : State} {off : Nat} : classMatch s off = true ↔ s.tripleAt off ∈ s.tables.classes :=
  List.contains_iff_mem

theorem pipeTypeOf_eq_bulk {attr : Byte} : pipeTypeOf attr = .bulk ↔ attr.extractLsb' 0 2 = 2#2 := by
  unfold pipeTypeOf
  split_ifs with hcontrol hiso hbulk
  · simp [hcontrol]
  · simp [hiso]
  · simp [hbulk]
  · simp [hbulk]

/-- The pipe an ENDPOINT record asks for, field by field (rule R124, rule R270). -/
theorem recordPipe_eq (s : State) (off : Nat) : recordPipe s off = s.pipeAt off := by
  simp only [recordPipe, endpointPipe, State.pipeAt, State.sizeAt, le16_eq_append, pipeTypeOf_eq_bulk]

/-! ### The descriptor of two interfaces -/

/-- The walk of CHECK_CLASS over the descriptor stands at `r.off`, with entry 0 alone recorded. -/
structure State.OneRecorded (s u : State) (r : ParseRegs) : Prop where
  kept : s.Kept u
  parse : u.parse = r
  nsi : u.nsi = 1
  iface : ∀ k, 1 ≤ k → u.iface k = s.iface k
  run : RunsTo (1300 + 2 * r.off) (s.setFg (parseProg s.cfg .command)) (u.setFg [.parseWalk 48 .command])

section
variable {s u : State} {total : Nat}

/-- What the walk reads of the record it stands at. -/
theorem RecordAt.read {off : Nat} {len typ : Byte} (h : RecordAt s off len typ) (hk : s.Kept u) (ho : u.parse.off = off) :
    u.recordLen = len.toNat ∧ u.recordTyp = typ.toNat := by
  obtain ⟨hlen, htyp⟩ := h
  rw [State.recordLen, State.recordTyp, ho, hk.cacheByte, hk.cacheByte, hlen, htyp]
  exact ⟨rfl, rfl⟩

theorem RecordAt.fits {off : Nat} {len typ : Byte} (h : RecordAt s off len typ) (hk : s.Kept u) (ho : u.parse.off = off)
    (hfit : 2 ≤ len.toNat ∧ off + len.toNat ≤ total) : u.RecordFits total := by
  rw [State.RecordFits, (h.read hk ho).1, ho]
  exact hfit

theorem OneOfTwoMatches.bound (h : OneOfTwoMatches s) (hlen : 48 ≤ s.cacheLen) : s.parseBound = 48 := by
  obtain ⟨-, htwo, hthree, -⟩ := h
  rw [State.parseBound, htwo, hthree]
  exact Nat.min_eq_left hlen

/-- The state once the first interface has been recorded. -/
def State.firstRecorded (s : State) : State := s.parseStarted.passed.recorded

/-- The entry of the first interface as its INTERFACE record makes it. -/
def State.firstEntry (s : State) : Iface := s.entryAt 9 (s.iface 0)

theorem OneOfTwoMatches.nbEp (h : OneOfTwoMatches s) (hmaxEp : 2 ≤ s.cfg.maxEp) : s.firstEntry.nbEp = 2 := by
  obtain ⟨-, -, -, -, hcount, -⟩ := h
  have hbyte : (s.cacheByte (9 + 4)).toNat = 2 := congrArg BitVec.toNat hcount
  rw [State.firstEntry, State.entryAt, hbyte]
  exact Nat.min_eq_left hmaxEp

theorem State.parseStarted_iface (s : State) (k : Nat) : s.parseStarted.iface k = s.iface k := by
  rw [State.iface, State.iface, s.parseStarted_si]

/-- The walk is past the header. -/
theorem OneOfTwoMatches.headPassed (h : OneOfTwoMatches s) (hs : s.Walking) :
    RunsTo 8 (s.parseStarted.setFg [.parseWalk 48 .command]) (s.parseStarted.passed.setFg [.parseWalk 48 .command]) ∧
      s.parseStarted.passed.parse = ⟨0, none, 9⟩ := by
  obtain ⟨hhead, -⟩ := h
  have hkept := s.parseStarted_kept
  have hparse : s.parseStarted.parse = ⟨0, none, 0⟩ := rfl
  have hoff : s.parseStarted.parse.off = 0 := congrArg ParseRegs.off hparse
  obtain ⟨hlen, htyp⟩ := hhead.read hkept hoff
  have hskip : s.parseStarted.recordTyp ≠ 4 := by rw [htyp]; decide
  refine ⟨(hkept.walking hs).pass (hhead.fits hkept hoff (by decide)) (congrArg ParseRegs.pendEp hparse)
    fun hiface => absurd hiface hskip, ?_⟩
  rw [State.passed, State.setParse_parse, if_neg hskip, hparse, hlen]
  rfl

/-- The first interface is recorded (rule R267). -/
theorem OneOfTwoMatches.oneRecorded (h : OneOfTwoMatches s) (hs : s.Walking) (hcap : s.cacheLen ≤ s.cfg.sizeofDataStage)
    (hlen : 48 ≤ s.cacheLen) (hmaxEp : 2 ≤ s.cfg.maxEp) :
    s.OneRecorded s.firstRecorded (if s.cfg.autoCfgEndpoint then ⟨2, some 0, 18⟩ else ⟨0, none, 18⟩) ∧
      s.firstRecorded.iface 0 = s.firstEntry := by
  obtain ⟨hpass, hparse⟩ := h.headPassed hs
  have hnbEp := h.nbEp hmaxEp
  have hbound := h.bound hlen
  obtain ⟨-, -, -, hfirst, -, -, -, -, -, hmatch, -⟩ := h
  let w := s.parseStarted.passed
  have hw : s.Kept w := s.parseStarted_kept.trans (State.passed_kept _)
  have hnsi : w.nsi = 0 := s.parseStarted_nsi
  have hoff : w.parse.off = 9 := congrArg ParseRegs.off hparse
  obtain ⟨hlength, htyp⟩ := hfirst.read hw hoff
  have hentry : w.newEntry = s.firstEntry := by
    rw [State.newEntry, hnsi, hoff, hw.entryAt, State.passed_iface, s.parseStarted_iface, State.firstEntry]
  have hroom : w.nsi ≠ w.cfg.maxInterface := by
    rw [hnsi, hw.cfg]
    exact Nat.ne_of_lt (Config.one_le_maxInterface hs.legal)
  have hregistered : 9 ≤ w.recordLen ∧ classMatch w w.parse.off = true := by
    rw [hlength, hoff, hw.classMatch]
    exact ⟨by decide, classMatch_iff.mpr hmatch⟩
  have hsome : w.newEntry.nbEp ≠ 0 := by
    rw [hentry, hnbEp]
    decide
  have hrecord := (hw.walking hs).record (who := .command) (hfirst.fits hw hoff (by decide : _ ∧ _ ≤ 48)) htyp
    (congrArg ParseRegs.pendEp hparse) hroom hregistered hsome
  have hbegin := hs.parseBegin hcap .command
  rw [hbound] at hbegin
  refine ⟨⟨hw.trans w.recorded_kept, ?_, ?_, fun k hk => ?_, ?_⟩, ?_⟩
  · rw [State.firstRecorded, State.recorded, State.setParse_parse, hw.cfg, hentry, hnbEp, hnsi, hoff, hlength]
    rfl
  · rw [State.firstRecorded, State.recorded_nsi, hnsi]
  · rw [State.firstRecorded, State.recorded_iface, hnsi, if_neg (Nat.ne_of_gt hk), State.passed_iface, s.parseStarted_iface]
  · refine ((hbegin.trans hpass).trans hrecord).mono ?_
    split <;> decide
  · rw [State.firstRecorded, State.recorded_iface, hnsi, if_pos rfl, hentry]

section
variable {n off : Nat}

/-- Without automatic configuration an ENDPOINT record changes no entry (rule R269). -/
theorem State.OneRecorded.pass {o : Option Nat} (h : s.OneRecorded u ⟨0, o, off⟩) (hs : s.Walking)
    (hr : RecordAt s off 7#8 5#8) (hfit : off + 7 ≤ 48) : s.OneRecorded u.passed ⟨0, o, off + 7⟩ := by
  obtain ⟨hkept, hparse, hnsi, hiface, hrun⟩ := h
  have hoff : u.parse.off = off := congrArg ParseRegs.off hparse
  obtain ⟨hlen, htyp⟩ := hr.read hkept hoff
  have hskip : u.recordTyp ≠ 4 := by rw [htyp]; decide
  have hpass := (hkept.walking hs).pass (who := .command) (hr.fits hkept hoff ⟨by decide, hfit⟩)
    (congrArg ParseRegs.pendEp hparse) fun hi => absurd hi hskip
  refine ⟨hkept.trans u.passed_kept, ?_, hnsi, hiface, (hrun.trans hpass).mono (by dsimp only; omega)⟩
  rw [State.passed, State.setParse_parse, if_neg hskip, hparse, hlen]
  rfl

/-- With automatic configuration an ENDPOINT record of the entry gets a pipe, if one can be had (rule R269). -/
theorem State.OneRecorded.endpoint (h : s.OneRecorded u ⟨n + 1, some 0, off⟩) (hs : s.Walking)
    (hauto : s.cfg.autoCfgEndpoint = true) (hr : RecordAt s off 7#8 5#8) (hfit : off + 7 ≤ 48) :
    s.OneRecorded (u.piped 0) ⟨n, some 0, off + 7⟩ := by
  obtain ⟨hkept, hparse, hnsi, hiface, hrun⟩ := h
  have hoff : u.parse.off = off := congrArg ParseRegs.off hparse
  obtain ⟨hlen, htyp⟩ := hr.read hkept hoff
  have hpipe := (hkept.walking hs).endpoint (who := .command) (hr.fits hkept hoff ⟨by decide, hfit⟩) htyp hlen.ge
    (congrArg ParseRegs.curSi hparse) (by rw [hparse]; exact Nat.succ_pos n) (hkept.cfg ▸ hauto)
  refine ⟨hkept.trans (u.piped_kept (hkept.cfg ▸ hs.legal) 0), ?_, (u.piped_nsi 0).trans hnsi, fun k hk => ?_,
    (hrun.trans hpipe).mono (by dsimp only; omega)⟩
  · rw [State.piped_parse, hparse, hlen]
    rfl
  · rw [State.piped_iface, if_neg (Nat.ne_of_gt hk), hiface k hk]

end

/-- What is issued from the second interface on: a full table ends the walk there (rule R266, rule R267). -/
def State.restHooks (s : State) : List Output :=
  [Output.hook 32] ++ (if s.cfg.maxInterface = 1 then [] else [Output.hook 41])

/-- From the second interface on only hooks are left: it ends the walk of a full table, and is passed with its endpoint
otherwise (rule R267, rule R273). -/
theorem State.OneRecorded.walkRest {o : Option Nat} (hu : s.OneRecorded u ⟨0, o, 32⟩) (h : OneOfTwoMatches s)
    (hs : s.Walking) : ∃ v, u.Kept v ∧ v.parse.pendEp = 0 ∧ v.nsi = u.nsi ∧ (∀ k, v.iface k = u.iface k) ∧
      v.pipes = u.pipes ∧ Issued u v s.restHooks ∧
      RunsTo 17 (u.setFg [.parseWalk 48 .command]) (v.setFg [.parseEnd .command]) := by
  obtain ⟨hkept, hparse, hnsi, -, -⟩ := hu
  obtain ⟨-, -, -, -, -, -, -, hsecond, hlast, -, hother⟩ := h
  have hoff : u.parse.off = 32 := congrArg ParseRegs.off hparse
  have hpend : u.parse.pendEp = 0 := congrArg ParseRegs.pendEp hparse
  obtain ⟨hlen, htyp⟩ := hsecond.read hkept hoff
  have hfits := hsecond.fits hkept hoff (by decide : _ ∧ _ ≤ 48)
  have hwalking := hkept.walking hs
  by_cases hfull : s.cfg.maxInterface = 1
  · have hbegin := hwalking.ifaceBegin (who := .command) hfits htyp hpend
    have hmax : u.nsi = u.cfg.maxInterface := by rw [hnsi, hkept.cfg, hfull]
    have hend := RunsTo.goOn (s := u.ifaceBegun) (m := .ifaceMatch u.recordLen 48 .command) [.parseEnd .command]
      (u.ifaceBegun_kept.walking hwalking).calm (if_pos hmax)
    refine ⟨u.ifaceBegun, u.ifaceBegun_kept, rfl, rfl, fun _ => rfl, rfl, ?_, (hbegin.trans hend).mono (by decide)⟩
    rw [State.restHooks, if_pos hfull, ← hoff]
    rfl
  · have hunmatched : u.recordTyp = 4 →
        u.nsi ≠ u.cfg.maxInterface ∧ ¬ (9 ≤ u.recordLen ∧ classMatch u u.parse.off = true) := by
      rw [hnsi, hkept.cfg, hoff, hkept.classMatch, classMatch_iff]
      exact fun _ => ⟨Ne.symm hfull, fun hmatch => hother hmatch.2⟩
    have hpass := hwalking.pass (who := .command) hfits hpend hunmatched
    have hv := hkept.trans u.passed_kept
    have hvoff : u.passed.parse.off = 41 := by
      rw [State.passed, State.setParse_parse, hoff, hlen]
      rfl
    obtain ⟨hlen', htyp'⟩ := hlast.read hv hvoff
    have hpass' := (hv.walking hs).pass (who := .command) (hlast.fits hv hvoff (by decide : _ ∧ _ ≤ 48)) rfl
      fun hi => absurd (htyp'.symm.trans hi) (by decide)
    have hw := hv.trans u.passed.passed_kept
    have hwoff : u.passed.passed.parse.off = 48 := by
      rw [State.passed, State.setParse_parse, hvoff, hlen']
      rfl
    have hstop := (hw.walking hs).stop (total := 48) (who := .command) fun ⟨htwo, hend⟩ => by omega
    refine ⟨u.passed.passed, u.passed_kept.trans u.passed.passed_kept, rfl, rfl, fun k => ?_, ?_, ?_,
      (hpass.trans hpass').trans hstop⟩
    · rw [State.passed_iface, State.passed_iface]
    · rw [State.passed_pipes, State.passed_pipes]
    · have hissued := u.passed_issued.trans u.passed.passed_issued
      rw [hoff, hvoff] at hissued
      rwa [State.restHooks, if_neg hfull]

/-- CHECK_CLASS on the descriptor reports the one interface recorded (rule R271, rule R273). -/
theorem State.OneRecorded.finish {o : Option Nat} (hu : s.OneRecorded u ⟨0, o, 32⟩) (h : OneOfTwoMatches s) (hq : Quiet s)
    (hlegal : s.cfg.legal = true) : ∃ t, exec .checkClass s = .next t ∧ t.nsi = 1 ∧ (∀ k, t.iface k = u.iface k) ∧
      t.pipes = u.pipes ∧ Issued u t s.restHooks := by
  have hs := hq.walking hlegal
  obtain ⟨v, hkept, hpend, hnsi, hiface, hpipes, hissued, hrest⟩ := hu.walkRest h hs
  have hreached : RunsTo (1300 + 2 * 32 + 17) _ _ := hu.run.trans hrest
  have hexec := (hkept.walking (hu.kept.walking hs)).exec_checkClass hq.1 hpend hreached (by decide)
  exact ⟨v.classReturned, hexec, hnsi.trans hu.nsi, hiface, hpipes, hissued⟩

theorem OneOfTwoMatches.firstRecorded_issued (h : OneOfTwoMatches s) (hs : s.Walking) :
    Issued s.parseStarted s.firstRecorded [.hook 0, .hook 9] := by
  obtain ⟨-, hparse⟩ := h.headPassed hs
  have hrecorded := s.parseStarted.passed.recorded_issued
  rw [hparse] at hrecorded
  exact s.parseStarted.passed_issued.trans hrecorded

/-- The entry of the first interface before its endpoints have pipes. -/
theorem OneOfTwoMatches.recordedAs (h : OneOfTwoMatches s) (hmaxEp : 2 ≤ s.cfg.maxEp) :
    RecordedAs s s.firstEntry 9 0xFF#8 0xFF#8 false :=
  ⟨rfl, rfl, rfl, h.nbEp hmaxEp, s.entryAt_slot 9 _ (Nat.lt_of_lt_of_le Nat.zero_lt_two hmaxEp),
    s.entryAt_slot 9 _ hmaxEp, fun _ _ he => s.entryAt_slot 9 _ he, rfl⟩

/-! ### Without automatic configuration -/

/-- The interface is recorded, no endpoint of it has a pipe and no pipe is touched. -/
theorem OneOfTwoMatches.manual (h : OneOfTwoMatches s) (hq : Quiet s) (hlegal : s.cfg.legal = true)
    (hcap : s.cacheLen ≤ s.cfg.sizeofDataStage) (hlen : 48 ≤ s.cacheLen) (hmaxEp : 2 ≤ s.cfg.maxEp)
    (hauto : s.cfg.autoCfgEndpoint = false) : ∃ t, exec .checkClass s = .next t ∧ t.nsi = 1 ∧
      (∀ i, 1 ≤ i → t.iface i = s.iface i) ∧ RecordedAs s (t.iface 0) 9 0xFF#8 0xFF#8 false ∧ t.pipes = s.pipes ∧
      Issued s t ([Output.hook 0, .hook 9, .hook 18, .hook 25] ++ s.restHooks) := by
  have hs := hq.walking hlegal
  obtain ⟨hu, hentry⟩ := h.oneRecorded hs hcap hlen hmaxEp
  rw [hauto, if_neg Bool.false_ne_true] at hu
  obtain ⟨-, -, -, -, -, hthird, hfourth, -⟩ := id h
  have hu' := hu.pass hs hthird (by decide)
  have hu'' := hu'.pass hs hfourth (by decide)
  obtain ⟨t, hexec, hnsi, hiface, hpipes, hissued⟩ := hu''.finish h hq hlegal
  have hstarted : Issued s s.parseStarted [] := by
    rw [State.parseStarted_of_manual hauto]
    rfl
  have hfirst := s.firstRecorded.passed_issued
  have hsecond := s.firstRecorded.passed.passed_issued
  rw [hu.parse] at hfirst
  rw [hu'.parse] at hsecond
  refine ⟨t, hexec, hnsi, fun i hi => (hiface i).trans (hu''.iface i hi), ?_, ?_, ?_⟩
  · rw [hiface, State.passed_iface, State.passed_iface, hentry]
    exact h.recordedAs hmaxEp
  · rw [hpipes, State.passed_pipes, State.passed_pipes, State.firstRecorded, State.recorded_pipes, State.passed_pipes,
      State.parseStarted_of_manual hauto]
    rfl
  · exact (((hstarted.trans (h.firstRecorded_issued hs)).trans hfirst).trans hsecond).trans hissued

/-! ### With automatic configuration -/

/-- An endpoint that fits every data pipe gets the lowest free one (rule R270). -/
theorem State.OneRecorded.chosen {r : ParseRegs} {p : Nat} (hu : s.OneRecorded u r)
    (hfits : s.sizeAt r.off ≤ s.cfg.smallCap) (hp : p ∈ s.cfg.dataPipes) (hfree : (u.pipe p).alloc = false)
    (hlowest : ∀ q ∈ s.cfg.dataPipes, (u.pipe q).alloc = false → p ≤ q) : u.chosen = some p := by
  have hsize : (recordPipe u u.parse.off).mps = s.sizeAt r.off := by
    rw [hu.kept.recordPipe, hu.parse, recordPipe_eq]
    rfl
  rw [State.chosen, hsize]
  rw [← hu.kept.cfg] at hfits hp hlowest
  exact (choosePipe_of_small_eq_some hfits).mpr ⟨hp, hfree, hlowest⟩

/-- What an endpoint that gets a pipe leaves (rule R269, rule R270). -/
theorem State.OneRecorded.piped {r : ParseRegs} {p : Nat} (hu : s.OneRecorded u r) (h : u.chosen = some p) :
    (∀ q, (u.piped 0).pipe q = if q = p then s.pipeAt r.off else u.pipe q) ∧
      Issued u (u.piped 0) [.hook r.off, configured p (s.pipeAt r.off)] := by
  have hrecord : recordPipe u u.parse.off = s.pipeAt r.off := by
    rw [hu.kept.recordPipe, hu.parse, recordPipe_eq]
  have hpipe := State.piped_pipe 0 h
  have hissued := State.piped_issued 0 h
  rw [hrecord] at hpipe hissued
  rw [hu.parse] at hissued
  exact ⟨hpipe, hissued⟩

/-- The entry of the first interface once its two endpoints have pipes 1 and 2. -/
def State.bothPiped (s : State) : Iface := (s.firstEntry.set (.pipe 0 1#8)).set (.pipe 1 2#8)

theorem State.bothPiped_slot (s : State) (e : Nat) : s.bothPiped.pipe.getD e noPipe =
    if e = 1 then 2#8 else if e = 0 then 1#8 else s.firstEntry.pipe.getD e noPipe := by
  rw [← tableSet_getD noPipe (1#8 : Byte), ← tableSet_getD noPipe (2#8 : Byte)]
  rfl

theorem OneOfTwoMatches.bothPiped_allPiped (h : OneOfTwoMatches s) (hmaxEp : 2 ≤ s.cfg.maxEp) :
    s.bothPiped.allPiped = true := by
  have hnbEp : s.bothPiped.nbEp = 2 := h.nbEp hmaxEp
  rw [Iface.allPiped, hnbEp, List.all_eq_true]
  intro e he
  rw [State.bothPiped_slot]
  obtain rfl | rfl : e = 0 ∨ e = 1 := by
    have htwo := List.mem_range.mp he
    omega
  · rfl
  · rfl

/-- The entry with both endpoints on their pipes (rule R268, rule R269). -/
theorem OneOfTwoMatches.recordedAs_bothPiped (h : OneOfTwoMatches s) (hmaxEp : 2 ≤ s.cfg.maxEp) :
    RecordedAs s (s.bothPiped.set (.configured s.bothPiped.allPiped)) 9 1#8 2#8 true := by
  refine ⟨rfl, rfl, rfl, h.nbEp hmaxEp, s.bothPiped_slot 0, s.bothPiped_slot 1, fun e htwo he => ?_,
    h.bothPiped_allPiped hmaxEp⟩
  refine (s.bothPiped_slot e).trans ?_
  rw [if_neg (by omega), if_neg (by omega)]
  exact s.entryAt_slot 9 _ he

/-- The two ENDPOINT records of the interface, whatever pipes they get. -/
theorem OneOfTwoMatches.endpoints (h : OneOfTwoMatches s) (hs : s.Walking) (hauto : s.cfg.autoCfgEndpoint = true)
    (hu : s.OneRecorded u ⟨2, some 0, 18⟩) :
    s.OneRecorded (u.piped 0) ⟨1, some 0, 25⟩ ∧ s.OneRecorded ((u.piped 0).piped 0) ⟨0, some 0, 32⟩ := by
  obtain ⟨-, -, -, -, -, hthird, hfourth, -⟩ := h
  have hu' := hu.endpoint hs hauto hthird (by decide)
  exact ⟨hu', hu'.endpoint hs hauto hfourth (by decide)⟩

/-- The endpoints that get pipes 1 and 2 are recorded in the slots of the entry. -/
theorem OneOfTwoMatches.pipedEntry (h : OneOfTwoMatches s) (hmaxEp : 2 ≤ s.cfg.maxEp)
    (hu : s.OneRecorded u ⟨2, some 0, 18⟩) (hu' : s.OneRecorded (u.piped 0) ⟨1, some 0, 25⟩)
    (hentry : u.iface 0 = s.firstEntry) (hone : u.chosen = some 1) (htwo : (u.piped 0).chosen = some 2) :
    ((u.piped 0).piped 0).iface 0 = s.bothPiped.set (.configured s.bothPiped.allPiped) := by
  have hnbEp := h.nbEp hmaxEp
  have hfirst : (u.piped 0).iface 0 = s.firstEntry.set (.pipe 0 1#8) := by
    rw [State.piped_iface, if_pos rfl, State.pipedEntry, hu.parse, hone, hentry, hnbEp]
    rfl
  have hnbEp' : (s.firstEntry.set (.pipe 0 1#8)).nbEp = 2 := hnbEp
  rw [State.piped_iface, if_pos rfl, State.pipedEntry, hu'.parse, htwo, hfirst, hnbEp']
  rfl

/-- The interface is recorded with its endpoints on pipes 1 and 2, every other data pipe is free (rule R264, rule R268 to
rule R270). -/
theorem OneOfTwoMatches.auto (h : OneOfTwoMatches s) (hq : Quiet s) (hlegal : s.cfg.legal = true)
    (hcap : s.cacheLen ≤ s.cfg.sizeofDataStage) (hlen : 48 ≤ s.cacheLen) (hmaxEp : 2 ≤ s.cfg.maxEp)
    (hauto : s.cfg.autoCfgEndpoint = true) : ∃ t, exec .checkClass s = .next t ∧ t.nsi = 1 ∧
      (∀ i, 1 ≤ i → t.iface i = s.iface i) ∧
      (3 ≤ s.cfg.nPipes → s.sizeAt 18 ≤ s.cfg.smallCap → s.sizeAt 25 ≤ s.cfg.smallCap →
        RecordedAs s (t.iface 0) 9 1#8 2#8 true ∧ t.pipe 1 = s.pipeAt 18 ∧ t.pipe 2 = s.pipeAt 25 ∧
        (∀ p, 3 ≤ p → p < s.cfg.nPipes → (t.pipe p).alloc = false) ∧
        Issued s t ((s.cfg.dataPipes.filter fun p => (s.pipe p).alloc).map (fun p => Output.hal (.disablePipe p)) ++
          [Output.hook 0, .hook 9, .hook 18, configured 1 (s.pipeAt 18), .hook 25, configured 2 (s.pipeAt 25)] ++
          s.restHooks)) := by
  have hs := hq.walking hlegal
  obtain ⟨hu, hentry⟩ := h.oneRecorded hs hcap hlen hmaxEp
  rw [hauto, if_pos rfl] at hu
  obtain ⟨hu', hu''⟩ := h.endpoints hs hauto hu
  obtain ⟨t, hexec, hnsi, hiface, hpipes, hissued⟩ := hu''.finish h hq hlegal
  refine ⟨t, hexec, hnsi, fun i hi => (hiface i).trans (hu''.iface i hi), fun hthree hsmall hsmall' => ?_⟩
  have hfree {p : Nat} (hp : p ∈ s.cfg.dataPipes) : (s.firstRecorded.pipe p).alloc = false := by
    rw [State.pipe, State.firstRecorded, State.recorded_pipes, State.passed_pipes]
    exact State.parseStarted_alloc hauto hp
  have honeData := Config.one_mem_dataPipes hlegal
  have htwoData : 2 ∈ s.cfg.dataPipes := Config.mem_dataPipes.mpr ⟨by decide, hthree⟩
  have hone : s.firstRecorded.chosen = some 1 :=
    hu.chosen hsmall honeData (hfree honeData) fun q hq _ => (Config.mem_dataPipes.mp hq).1
  obtain ⟨hpipe, hfirst⟩ := hu.piped hone
  have htwo : (s.firstRecorded.piped 0).chosen = some 2 := by
    refine hu'.chosen hsmall' htwoData ?_ fun q hq hqfree => ?_
    · rw [hpipe, if_neg (by decide)]
      exact hfree htwoData
    · have htaken : q ≠ 1 := by
        rintro rfl
        rw [hpipe, if_pos rfl] at hqfree
        cases hqfree
      have hqone := (Config.mem_dataPipes.mp hq).1
      omega
  obtain ⟨hpipe', hsecond⟩ := hu'.piped htwo
  have htpipe (p : Nat) :
      t.pipe p = if p = 2 then s.pipeAt 25 else if p = 1 then s.pipeAt 18 else s.firstRecorded.pipe p := by
    rw [State.pipe, hpipes]
    exact (hpipe' p).trans (by rw [hpipe])
  refine ⟨?_, htpipe 1, htpipe 2, fun p hp hpn => ?_, ?_⟩
  · rw [hiface, h.pipedEntry hmaxEp hu hu' hentry hone htwo]
    exact h.recordedAs_bothPiped hmaxEp
  · rw [htpipe, if_neg (by omega), if_neg (by omega)]
    exact hfree (Config.mem_dataPipes.mpr ⟨by omega, hpn⟩)
  · have hall := ((((State.parseStarted_issued hauto).trans (h.firstRecorded_issued hs)).trans hfirst).trans hsecond).trans
      hissued
    simpa only [List.append_assoc, List.cons_append, List.nil_append] using hall

end

/-! ### Every content of `CACHE` -/

/-- What CHECK_CLASS changes lies in the tables, the parser's registers, the HAL and the outputs. -/
theorem State.Kept.frame {s t : State} (h : s.Kept t) : t = { s with
    nsi := t.nsi, si := t.si, parse := t.parse, pipes := t.pipes, hal := t.hal, trace := t.trace, fg := t.fg } :=
  calc t = { t.outside with
      nsi := t.nsi, si := t.si, parse := t.parse, pipes := t.pipes, hal := t.hal, trace := t.trace, fg := t.fg } := rfl
    _ = { s.outside with
      nsi := t.nsi, si := t.si, parse := t.parse, pipes := t.pipes, hal := t.hal, trace := t.trace, fg := t.fg } := by
        rw [h.outside]
    _ = _ := rfl

theorem State.Kept.classReturned_res {s t : State} (h : s.Kept t) :
    t.classReturned.res = { s.res with bool := decide (0 < t.nsi) } := by
  have hres : t.res = s.res := (congrArg State.res h.outside :)
  rw [State.classReturned_res, hres]

/-- What CHECK_CLASS has changed when it has returned. -/
theorem State.Kept.classReturned {s t : State} (h : s.Kept t) (hfg : s.fg = []) : t.classReturned = { s with
    nsi := t.nsi, si := t.si, pipes := t.pipes, parse := t.parse, res := t.classReturned.res, hal := t.hal,
    trace := t.trace } :=
  calc t.classReturned = (t.setRes t.classReturned.res).setFg s.fg := by rw [hfg]; rfl
    _ = _ := congrArg (fun u : State => (u.setRes t.classReturned.res).setFg s.fg) h.frame

/-- Settles O13: the walk returns whatever `CACHE` holds; on the descriptor of two interfaces it is followed record by
record. -/
theorem checkClassReturns : Obligations.CheckClassReturns := by
  intro s hq hlegal hcap
  obtain ⟨v, hkept, hmax, hrun⟩ := (hq.walking hlegal).parse hcap .command
  have hexec := exec_checkClass hq.1 hrun (hkept.walking (hq.walking hlegal)).calm (by decide)
  refine ⟨v.classReturned, hexec, hkept.classReturned_res, hmax, hkept.pipe, hkept.classReturned hq.1,
    fun hdesc hlen hmaxEp => ?_⟩
  cases hauto : s.cfg.autoCfgEndpoint with
  | true =>
    obtain ⟨t, hexec', hnsi, hiface, hpiped⟩ := hdesc.auto hq hlegal hcap hlen hmaxEp hauto
    obtain rfl : v.classReturned = t := Host.Outcome.next.inj (hexec.symm.trans hexec')
    exact ⟨hnsi, hiface, fun _ => hpiped, fun h => absurd h (by decide)⟩
  | false =>
    obtain ⟨t, hexec', hnsi, hiface, hrest⟩ := hdesc.manual hq hlegal hcap hlen hmaxEp hauto
    obtain rfl : v.classReturned = t := Host.Outcome.next.inj (hexec.symm.trans hexec')
    exact ⟨hnsi, hiface, fun h => absurd h (by decide), fun _ => hrest⟩

end Sys2Proof.Machine
end

section
/-! PROOFS. The family `43_sync_pump.md`: the operand check of the synchronous pump (rule R302), one poll of its wait (rule
R320), and a state seen from the pump. -/

namespace Sys2Proof.Machine

/-! ### The operand check (rule R302) -/

theorem pumpCheck_iff {s : State} {p : Nat} {dirIn : Bool} :
    pumpCheck p dirIn s = true ↔ 1 ≤ p ∧ p < s.cfg.nPipes ∧ (s.pipe p).alloc = true ∧ (s.pipe p).dirIn = dirIn ∧
      (s.job p).enabled = false := by
  simp [pumpCheck, pipeOk, and_assoc]

/-- Settles O39: the check stands before everything else. -/
theorem pumpOperandRefused : Obligations.PumpOperandRefused := fun _ _ =>
  ⟨fun h => if_neg (mt pumpCheck_iff.mp h), fun h => if_neg (mt pumpCheck_iff.mp h)⟩

/-! ### One poll of a packet wait (rule R320) -/

/-- Settles O40: the tests stand in `spPoll` in the order of the rule. -/
theorem spWaitOrder : Obligations.SpWaitOrder := by
  intro s p dirIn
  have hcounted : ∀ c : CountRegs, again (.spPoll p dirIn) ((s.doHal (.ackNak p)).setCnt c) =
      .ran { s.doHal (.ackNak p) with cnt := c, fg := .spPoll p dirIn :: s.fg } := fun c => by
    rw [← State.doHal_fg (.ackNak p) s]
    rfl
  simp only [micro, spPoll, errorCode_eq_append, nakBudget, Bool.and_eq_true, decide_eq_true_eq, and_assoc,
    State.setCnt_cnt, State.doHal_cnt, hcounted]
  rfl

end Sys2Proof.Machine
end

section
/-! PROOFS. The family `43_sync_pump.md`: a state seen from the synchronous pump, its entry (rule R303), its packet wait
(rule R320) and its exit (rule R322). -/

namespace Sys2Proof.Machine

/-! ### A state seen from the synchronous pump -/

/-- What the synchronous pump on a pipe changes from one packet to the next: what the HAL holds of the pipe, its `frozen`
bit, the HAL actions issued so far, its registers, `st`, `TMO`, `NAKCNT`, the micro-steps still to take and the events still
to come. -/
structure SpView where
  pipe : HalPipe
  frozen : Bool
  out : List HalAction
  sp : SpRegs
  st : Status
  tmo : Nat
  nakcnt : Nat
  fg : List Micro
  events : List Event

/-- The state `u` with what the synchronous pump on pipe `p` has changed. -/
def State.spAt (p : Nat) (u : State) (v : SpView) : State :=
  { u with
    hal := { u.hal with pipes := tableSet HalPipe.disabled u.hal.pipes p v.pipe }
    pipes := tableSet Pipe.unallocated u.pipes p { u.pipe p with frozen := v.frozen }
    trace := (hals v.out).reverse ++ u.trace
    sp := v.sp, st := v.st, cnt := { u.cnt with tmo := v.tmo, nakcnt := v.nakcnt }, fg := v.fg, inputs := atWait v.events }

section
variable (p : Nat) (u : State) (v : SpView)

@[simp] theorem State.spAt_cfg : (u.spAt p v).cfg = u.cfg := rfl
@[simp] theorem State.spAt_flags : (u.spAt p v).flags = u.flags := rfl
@[simp] theorem State.spAt_en : (u.spAt p v).en = u.en := rfl
@[simp] theorem State.spAt_res : (u.spAt p v).res = u.res := rfl
@[simp] theorem State.spAt_cache : (u.spAt p v).cache = u.cache := rfl
@[simp] theorem State.spAt_hbuf : (u.spAt p v).hbuf = u.hbuf := rfl
@[simp] theorem State.spAt_cnt : (u.spAt p v).cnt = { u.cnt with tmo := v.tmo, nakcnt := v.nakcnt } := rfl
@[simp] theorem State.spAt_sp : (u.spAt p v).sp = v.sp := rfl
@[simp] theorem State.spAt_st : (u.spAt p v).st = v.st := rfl
@[simp] theorem State.spAt_inputs : (u.spAt p v).inputs = atWait v.events := rfl
@[simp] theorem State.spAt_hostByte (b off : Nat) : (u.spAt p v).hostByte b off = u.hostByte b off := rfl

@[simp] theorem State.spAt_halPipe : (u.spAt p v).halPipe p = v.pipe := by
  simp only [State.halPipe, State.spAt, tableSet_getD, if_pos]

theorem State.spAt_pipe (q : Nat) :
    (u.spAt p v).pipe q = if q = p then { u.pipe p with frozen := v.frozen } else u.pipe q := tableSet_getD ..

@[simp] theorem State.spAt_pipe_self : (u.spAt p v).pipe p = { u.pipe p with frozen := v.frozen } := by
  rw [State.spAt_pipe, if_pos rfl]

@[simp] theorem State.spAt_calm : (u.spAt p v).calm = true := by
  cases hv : v.events with
  | nil => exact State.calm_nil (by simp [hv, atWait])
  | cons e es => exact State.calm_atWait (e := e) (later := atWait es) (by simp [hv, atWait])

@[simp] theorem State.spAt_setFg (f : List Micro) : (u.spAt p v).setFg f = u.spAt p { v with fg := f } := rfl

@[simp] theorem State.spAt_push (ms : List Micro) : (u.spAt p v).push ms = u.spAt p { v with fg := ms ++ v.fg } := rfl

theorem State.spAt_emit (a : HalAction) :
    (u.spAt p v).emit (.hal a) = u.spAt p { v with out := v.out ++ [a] } := by
  simp [State.spAt, State.emit, State.setTrace, hals]

theorem State.spAt_onPipe (f : HalPipe → HalPipe) :
    (u.spAt p v).onPipe p f = u.spAt p { v with pipe := f v.pipe } := by
  rw [State.onPipe, State.spAt_halPipe]
  simp only [State.setHalPipe, State.spAt, State.setHal, tableSet_tableSet]

theorem State.spAt_setFrozen (b : Bool) :
    act (.setFrozen p b) (u.spAt p v) = u.spAt p { v with frozen := b } := by
  rw [act, State.spAt_pipe_self]
  simp only [State.setPipe, State.spAt, State.setPipes, tableSet_tableSet]

end

/-- A state in which the pipe is enabled and allocated is seen from a pump on that pipe. -/
theorem State.spAt_self {s : State} {p : Nat} {es : List Event} (hon : (s.halPipe p).on = true)
    (ha : (s.pipe p).alloc = true) (hin : s.inputs = atWait es) (fg : List Micro) :
    s.setFg fg =
      s.spAt p ⟨s.halPipe p, (s.pipe p).frozen, [], s.sp, s.st, s.cnt.tmo, s.cnt.nakcnt, fg, es⟩ := by
  have hhal : tableSet HalPipe.disabled s.hal.pipes p (s.halPipe p) = s.hal.pipes :=
    tableSet_self _ _ _ fun h => by rw [State.halPipe, h] at hon; cases hon
  have hpipes : tableSet Pipe.unallocated s.pipes p (s.pipe p) = s.pipes :=
    tableSet_self _ _ _ fun h => by rw [State.pipe, h] at ha; cases ha
  simp only [State.spAt, hhal, hpipes, ← hin]
  rfl

/-! ### Straight-line micro-steps of the pump -/

/-- What an action on a pipe makes of what the HAL holds of it; the bytes `hal.fifo_write` leaves in the FIFO are not told
here. -/
def HalPipe.driven (a : HalAction) (h : HalPipe) : HalPipe :=
  match a with
  | .ackStall _ => { h with stall := false }
  | .ackNak _ => { h with nak := false }
  | .ackErrors _ => { h with error := 0#5 }
  | a => h.respond a

/-- The actions on pipe `p` that `HalPipe.driven` tells in full. -/
def HalAction.drives (p : Nat) (a : HalAction) : Bool :=
  match a with
  | .resetPipe q => q == p
  | .freezePipe q => q == p
  | .unfreezePipe q => q == p
  | .setToken q _ => q == p
  | .fifoRead q => q == p
  | .sendOut q => q == p
  | .sendIn q => q == p
  | .ackIn q => q == p
  | .ackOut q => q == p
  | .ackStall q => q == p
  | .ackNak q => q == p
  | .ackErrors q => q == p
  | _ => false

@[simp] theorem HalPipe.driven_on (a : HalAction) (h : HalPipe) : (h.driven a).on = h.on := by
  cases a <;> rfl

section
variable {p : Nat} {u : State} {v : SpView} (ha : (u.pipe p).alloc = true) (hon : v.pipe.on = true)
include ha hon

theorem State.spAt_live : (u.spAt p v).live p = true := by
  simp [State.live, ha, hon]

theorem State.spAt_onLive (f : HalPipe → HalPipe) : (u.spAt p v).onLive p f = u.spAt p { v with pipe := f v.pipe } := by
  rw [State.onLive, if_pos (State.spAt_live ha hon), State.spAt_onPipe]

theorem State.spAt_takes (r : HalPipe → Bool) : (u.spAt p v).takes p r = true :=
  (State.takes_eq ..).mpr (.inl (State.spAt_live ha hon))

theorem State.spAt_onTaken (r : HalPipe → Bool) (f : HalPipe → HalPipe) :
    (u.spAt p v).onTaken p r f = u.spAt p { v with pipe := f v.pipe } := by
  rw [State.onTaken, if_pos (State.spAt_takes ha hon r), State.spAt_onPipe]

theorem State.spAt_doHal {a : HalAction} (hd : a.drives p = true) :
    (u.spAt p v).doHal a = u.spAt p { v with pipe := v.pipe.driven a, out := v.out ++ [a] } := by
  have hlive := fun f => State.spAt_onLive (v := { v with out := v.out ++ [a] }) ha hon f
  have htaken := fun r f => State.spAt_onTaken (v := { v with out := v.out ++ [a] }) ha hon r f
  rw [State.doHal, State.spAt_emit]
  cases a
  case resetPipe | freezePipe | unfreezePipe | setToken | sendOut | ackStall | ackNak | ackErrors =>
    obtain rfl := beq_iff_eq.mp hd
    exact hlive _
  case fifoRead | ackIn | ackOut =>
    obtain rfl := beq_iff_eq.mp hd
    exact htaken _ _
  case sendIn => rfl
  all_goals cases hd

/-- `hal.fifo_write` leaves something in the FIFO, and nothing else of the pipe changes. -/
theorem State.spAt_fifoWrite (b : Byte) :
    ∃ fifo, (u.spAt p v).doHal (.fifoWrite p b) =
      u.spAt p { v with pipe := { v.pipe with fifo := fifo }, out := v.out ++ [.fifoWrite p b] } := by
  rw [State.doHal, State.spAt_emit]
  exact ⟨_, State.spAt_onLive (v := { v with out := v.out ++ [.fifoWrite p b] }) ha hon _⟩

end

/-- The view after a straight-line micro-step of the pump itself. -/
def SpView.after (v : SpView) (a : Act) : SpView :=
  match a with
  | .hal h => { v with pipe := v.pipe.driven h, out := v.out ++ [h] }
  | .setFrozen _ b => { v with frozen := b }
  | .spPipe p => { v with sp := { v.sp with pipe := p } }
  | .spBuf b => { v with sp := { v.sp with buf := b } }
  | .spRem n => { v with sp := { v.sp with rem := n } }
  | .spOff n => { v with sp := { v.sp with off := n } }
  | .spPhase ph => { v with sp := { v.sp with phase := ph } }
  | .spMoveOff n => { v with sp := { v.sp with off := v.sp.off + n } }
  | .spMoveRem n => { v with sp := { v.sp with rem := v.sp.rem - n } }
  | .zeroTmo => { v with tmo := 0 }
  | .zeroNakcnt => { v with nakcnt := 0 }
  | .setStatus st => { v with st := st }
  | _ => v

/-- The straight-line micro-steps of a pump on pipe `p` that `SpView.after` tells in full. -/
def Act.ofPump (p : Nat) (a : Act) : Bool :=
  match a with
  | .hal h => h.drives p
  | .setFrozen q _ => q == p
  | .spPipe _ => true
  | .spBuf _ => true
  | .spRem _ => true
  | .spOff _ => true
  | .spPhase _ => true
  | .spMoveOff _ => true
  | .spMoveRem _ => true
  | .zeroTmo => true
  | .zeroNakcnt => true
  | .setStatus _ => true
  | _ => false

@[simp] theorem SpView.after_on (v : SpView) (a : Act) : (v.after a).pipe.on = v.pipe.on := by
  cases a
  case hal h => exact HalPipe.driven_on h v.pipe
  all_goals rfl

section
variable {p : Nat} {u : State} {v : SpView} (ha : (u.pipe p).alloc = true) (hon : v.pipe.on = true)
include ha hon

theorem act_spAt {a : Act} (hl : a.ofPump p = true) : act a (u.spAt p v) = u.spAt p (v.after a) := by
  cases a
  case hal h => exact State.spAt_doHal ha hon hl
  case setFrozen q b =>
    obtain rfl := beq_iff_eq.mp hl
    exact State.spAt_setFrozen ..
  case spPipe | spBuf | spRem | spOff | spPhase | spMoveOff | spMoveRem | zeroTmo | zeroNakcnt | setStatus => rfl
  all_goals cases hl

theorem acts_spAt {l : List Act} (hl : l.all (Act.ofPump p) = true) :
    acts l (u.spAt p v) = u.spAt p (l.foldl SpView.after v) := by
  induction l generalizing v with
  | nil => rfl
  | cons a l ih =>
    simp only [List.all_cons, Bool.and_eq_true] at hl
    simp only [acts, act_spAt ha hon hl.1, List.foldl_cons]
    exact ih (by simpa using hon) hl.2

end

/-! ### The pump one micro-step at a time -/

section
variable {p : Nat} {u u' : State} {v w : SpView} {rest : List Micro}

/-- A micro-step that runs. -/
theorem RunsTo.spMicro {m : Micro} (hfg : v.fg = m :: rest)
    (hm : micro m (u.spAt p { v with fg := rest }) = .ran (u'.spAt p w)) : RunsTo 1 (u.spAt p v) (u'.spAt p w) :=
  .of_micro (State.spAt_calm p u v) hfg hm (State.spAt_calm p u' w)

/-- A straight-line micro-step that changes nothing of the view. -/
theorem RunsTo.spAct {a : Act} (hfg : v.fg = .act a :: rest)
    (ha : act a (u.spAt p { v with fg := rest }) = u'.spAt p { v with fg := rest }) :
    RunsTo 1 (u.spAt p v) (u'.spAt p { v with fg := rest }) :=
  .spMicro hfg (congrArg _ ha)

/-- A poll that is pending, and the next event. -/
theorem RunsTo.spPending {m : Micro} {e : Event} {es : List Event} (hfg : v.fg = m :: rest) (hes : v.events = e :: es)
    (hm : micro m (u.spAt p { v with fg := rest }) = .pending (u.spAt p v))
    (ho : occur e (u.spAt p { v with events := es }) = .next (u'.spAt p w)) : RunsTo 1 (u.spAt p v) (u'.spAt p w) :=
  .of_pending (State.spAt_calm p u v) hfg hm (i := ⟨.atWait, e⟩) (later := atWait es) (by simp [hes, atWait]) ho

/-- Straight-line micro-steps of the pump itself. -/
theorem RunsTo.spActs {l : List Act} (ha : (u.pipe p).alloc = true) (hon : v.pipe.on = true)
    (hfg : v.fg = actSteps l ++ rest) (hl : l.all (Act.ofPump p) = true) :
    RunsTo l.length (u.spAt p v) (u.spAt p (l.foldl SpView.after { v with fg := rest })) := by
  rw [← acts_spAt (v := { v with fg := rest }) ha hon hl]
  exact .of_acts (State.spAt_calm p u v) hfg

end

/-! ### The entry (rule R303) -/

/-- Nothing keeps a pump on pipe `p` of `u` from going on: no emergency, the bus runs, the pipe is allocated, and the delay
timeout is not a budget of nothing. -/
structure State.SpRunning (p : Nat) (u : State) : Prop where
  emerg : u.flags.emerg = false
  sofgen : u.en.sofgen = true
  alloc : (u.pipe p).alloc = true
  delay : 0 < u.cfg.delayTimeoutSof

/-- The pipe is enabled and no event that a packet wait looks at is pending. -/
structure HalPipe.Idle (h : HalPipe) : Prop where
  on : h.on = true
  inReady : h.inReady = false
  outReady : h.outReady = false
  error : h.error = 0#5
  stall : h.stall = false
  nak : h.nak = false

section
variable {s : State} {p : Nat} {dirIn : Bool} (h : PumpReady s p dirIn)
include h

theorem PumpReady.fg : s.fg = [] := h.1

theorem PumpReady.spRunning : s.sofPush.SpRunning p := by
  obtain ⟨-, -, -, halloc, -, -, hemerg, hgen, -, -, -, -, -, -, hdelay⟩ := h
  exact ⟨hemerg, hgen, halloc, hdelay⟩

theorem PumpReady.idle : (s.halPipe p).Idle := by
  obtain ⟨-, -, -, -, -, -, -, -, hon, hin, hout, herror, hstall, hnak, -⟩ := h
  exact ⟨hon, hin, hout, herror, hstall, hnak⟩

theorem PumpReady.pumpCheck : pumpCheck p dirIn s = true := by
  obtain ⟨-, hlow, hhigh, halloc, hdir, hjob, -⟩ := h
  exact pumpCheck_iff.mpr ⟨hlow, hhigh, halloc, hdir, hjob⟩

/-- The view of a pump that has been entered (rule R303), with its token set (rule R300, rule R310). -/
def SpView.entered (s : State) (p : Nat) (dirIn : Bool) (buf len : Nat) (es : List Event) : SpView where
  pipe := { s.halPipe p with token := if dirIn then .receive else .send }
  frozen := (s.pipe p).frozen
  out := [.setToken p (if dirIn then .receive else .send)]
  sp := ⟨if dirIn then .receiving else .sending, p, len, 0, buf⟩
  st := s.st
  tmo := s.cnt.tmo
  nakcnt := s.cnt.nakcnt
  fg := [if dirIn then .spInLoop p else .spOutLoop p, .spExit p dirIn, .act .resStatus]
  events := es

theorem RunsTo.spEnter {buf len : Nat} {es : List Event} (hin : s.inputs = atWait es) :
    RunsTo 7 (s.setFg (spProg p dirIn buf len)) (s.sofPush.spAt p (.entered s p dirIn buf len es)) := by
  have halloc : (s.pipe p).alloc = true := h.spRunning.alloc
  have hon := h.idle.on
  let loop : List Micro := [if dirIn then .spInLoop p else .spOutLoop p, .spExit p dirIn, .act .resStatus]
  let asking : List Act :=
    [.spPhase (if dirIn then .receiving else .sending), .hal (.setToken p (if dirIn then .receive else .send))]
  have hlatch := RunsTo.spActs (l := [.spPipe p, .spBuf buf, .spRem len, .spOff 0])
    (v := ⟨s.halPipe p, (s.pipe p).frozen, [], s.sp, s.st, s.cnt.tmo, s.cnt.nakcnt, spProg p dirIn buf len, es⟩)
    (rest := .act .critSofPush :: (actSteps asking ++ loop)) halloc hon rfl rfl
  have hpush := hlatch.trans (.spAct (u' := s.sofPush) rfl rfl)
  have hask := hpush.trans (.spActs (l := asking) halloc hon rfl (by simp [asking, Act.ofPump, HalAction.drives]))
  rw [State.spAt_self hon halloc hin]
  exact hask

end

theorem exec_sendData {s : State} {p : BitVec 8} (h : PumpReady s p.toNat false) :
    exec (.sendData p) s = run burst (s.setFg (spProg p.toNat false s.args.buf s.args.len.toNat)) :=
  (if_pos h.pumpCheck).trans (if_pos h.fg)

theorem exec_getData {s : State} {p : BitVec 8} (h : PumpReady s p.toNat true) :
    exec (.getData p) s = run burst (s.setFg (spProg p.toNat true s.args.buf s.args.len.toNat)) :=
  (if_pos h.pumpCheck).trans (if_pos h.fg)

/-! ### The packet wait (rule R320) -/

/-- The ready signal of a packet wait (rule R300, rule R310). -/
def HalPipe.ready (dirIn : Bool) (h : HalPipe) : Bool := if dirIn then h.inReady else h.outReady

theorem HalPipe.Idle.not_ready {h : HalPipe} (hi : h.Idle) (dirIn : Bool) : h.ready dirIn = false := by
  cases dirIn
  · exact hi.outReady
  · exact hi.inReady

section
variable {p : Nat} {dirIn : Bool} {u : State} {v : SpView} {rest : List Micro}

theorem spPoll_of_ready (hr : v.pipe.ready dirIn = true) :
    micro (.spPoll p dirIn) (u.spAt p v) = .ran (u.spAt p { v with st := Status.good }) := by
  rw [spWaitOrder, State.spAt_halPipe]
  exact if_pos hr

/-- A poll of an idle pipe before the delay timeout. -/
theorem spPoll_of_early (hemerg : u.flags.emerg = false) (hi : v.pipe.Idle) (ht : v.tmo < u.cfg.delayTimeoutSof)
    (hfg : v.fg = .spPoll p dirIn :: rest) :
    micro (.spPoll p dirIn) (u.spAt p { v with fg := rest }) = .pending (u.spAt p v) := by
  have hr := hi.not_ready dirIn
  have hback : u.spAt p { v with fg := .spPoll p dirIn :: rest } = u.spAt p v := by rw [← hfg]
  rw [HalPipe.ready] at hr
  rw [spWaitOrder, ← hback]
  simp [hr, hemerg, Nat.not_le.mpr ht, hi.error, hi.stall, hi.nak]
  rfl

/-- A poll of an idle pipe when the delay timeout is spent (rule R325). -/
theorem spPoll_of_spent (hemerg : u.flags.emerg = false) (hen : u.cfg.delayTimeoutEn = true) (hi : v.pipe.Idle)
    (ht : u.cfg.delayTimeoutSof ≤ v.tmo) :
    micro (.spPoll p dirIn) (u.spAt p v) = .ran ((u.spAt p v).raise Micro.isSpExit Status.delayTimeout) := by
  have hr := hi.not_ready dirIn
  rw [HalPipe.ready] at hr
  rw [spWaitOrder]
  simp [hr, hemerg, hen, ht, Status.delayTimeout]

/-- A packet wait to which the device gives the answer it waits for. -/
theorem RunsTo.spWait {h : HalPipe} {e : Event} {es : List Event} (hu : u.SpRunning p) (hi : v.pipe.Idle)
    (ht : v.tmo = 0) (hfg : v.fg = .spPoll p dirIn :: rest) (hes : v.events = e :: es)
    (hanswer : occur e (u.spAt p { v with events := es }) = .next (u.spAt p { v with pipe := h, events := es }))
    (hr : h.ready dirIn = true) :
    RunsTo 2 (u.spAt p v) (u.spAt p { v with pipe := h, st := Status.good, fg := rest, events := es }) :=
  have hpending := RunsTo.spPending hfg hes (spPoll_of_early hu.emerg hi (ht ▸ hu.delay) hfg) hanswer
  hpending.trans (.spMicro hfg (spPoll_of_ready hr))

/-! ### What the device reports of the pipe (rule R62, rule R474) -/

theorem State.spAt_raiseOn (hs : u.en.sofgen = true) (f : HalPipe → HalPipe) :
    (u.spAt p v).raiseOn p f = u.spAt p { v with pipe := f v.pipe } := by
  rw [State.raiseOn, State.spAt_en, if_pos hs, State.spAt_onPipe]

theorem occur_outReady_spAt (hs : u.en.sofgen = true) : occur (.outReady p) (u.spAt p v) =
    .next (u.spAt p { v with pipe := { v.pipe.bankFree with outReady := true } }) :=
  congrArg _ (State.spAt_raiseOn hs _)

theorem occur_nak_spAt (hs : u.en.sofgen = true) :
    occur (.nak p) (u.spAt p v) = .next (u.spAt p { v with pipe := { v.pipe with nak := true } }) :=
  congrArg _ (State.spAt_raiseOn hs _)

/-- A packet that fits the FIFO arrives whole. -/
theorem occur_inPacket_spAt {bytes : List Byte} (hs : u.en.sofgen = true) (hfit : bytes.length ≤ u.cfg.cap p) :
    occur (.inPacket p bytes) (u.spAt p v) =
      .next (u.spAt p { v with pipe := v.pipe.receive bytes bytes.length }) := by
  have hheld : (u.spAt p v).fitFifo p bytes = bytes := State.fitFifo_of_le hfit
  rw [occur, hheld, State.spAt_raiseOn hs]

/-- A start of frame at a poll that is pending (rule R421): it counts one in `TMO`. -/
theorem RunsTo.spFrame {m : Micro} {es : List Event} (hu : u.SpRunning p) (hsof : OnlySof u) (hie : u.en.sofie = true)
    (hlt : v.tmo < 0xFFFF) (hfg : v.fg = m :: rest) (hes : v.events = .sof :: .irq :: es)
    (hpend : ∀ (b : Bool) (es : List Event),
      micro m (({ u with hal := { u.hal with sof := b } } : State).spAt p { v with fg := rest, events := es }) =
        .pending (({ u with hal := { u.hal with sof := b } } : State).spAt p { v with events := es })) :
    RunsTo 2 (u.spAt p v) ((u.framedBy 1).spAt p { v with tmo := v.tmo + 1, events := es }) := by
  let raised : State := { u with hal := { u.hal with sof := true } }
  have hraised : RunsTo 1 (u.spAt p v) (raised.spAt p { v with events := .irq :: es }) := by
    refine .spPending hfg hes (hpend u.hal.sof v.events) ?_
    simp only [occur, State.spAt, State.setHal, hu.sofgen, Bool.or_true]
    rfl
  have hbody : evSofBody (raised.spAt p { v with events := es }) =
      (u.framedBy 1).spAt p { v with tmo := v.tmo + 1, events := es } := by
    simp only [evSofBody, State.spAt_en, hie, raised, State.spAt_cnt, hlt, decide_true, Bool.and_true, if_true]
    rfl
  have hentered : sequencer (raised.spAt p { v with events := es }) =
      .next ((u.framedBy 1).spAt p { v with tmo := v.tmo + 1, events := es }) :=
    (sequencer_of_sof (s := raised.spAt p { v with events := es }) hsof hu.sofgen rfl).trans (congrArg _ hbody)
  exact hraised.trans (.spPending (v := { v with events := .irq :: es }) hfg rfl (hpend true (.irq :: es)) hentered)

end

/-! ### The exit (rule R322) -/

/-- What is not the view's of a state whose pump has returned `st` with `SP_OFF` at `off`. -/
def State.spClosed (dirIn : Bool) (off : Nat) (st : Status) (u : State) : State :=
  { u with
    en := { u.en with sofie := u.en.sofieSaveFg }
    res := { u.res with status := st, len := if dirIn then BitVec.ofNat 16 off else u.res.len } }

section
variable (dirIn : Bool) (off : Nat) (st : Status) (u : State)

@[simp] theorem State.spClosed_cache : (u.spClosed dirIn off st).cache = u.cache := rfl
@[simp] theorem State.spClosed_hbuf : (u.spClosed dirIn off st).hbuf = u.hbuf := rfl
@[simp] theorem State.spClosed_en : (u.spClosed dirIn off st).en = { u.en with sofie := u.en.sofieSaveFg } := rfl
@[simp] theorem State.spClosed_res : (u.spClosed dirIn off st).res =
    { u.res with status := st, len := if dirIn then BitVec.ofNat 16 off else u.res.len } := rfl

end

/-- The registers of the pump while none is in progress. -/
def SpRegs.idle : SpRegs := ⟨.idle, 0, 0, 0, 0⟩

/-- The view of a pump that has returned `Good`, every event taken. -/
def SpView.returned (pipe : HalPipe) (out : List HalAction) (tmo nakcnt : Nat) : SpView :=
  ⟨pipe, true, out, SpRegs.idle, Status.good, tmo, nakcnt, [], []⟩

section
variable {p : Nat} {dirIn : Bool} {u : State} {v : SpView} {rest : List Micro}

/-- The part of the exit that every status has in common. -/
theorem RunsTo.spLeave (ha : (u.pipe p).alloc = true) (hon : v.pipe.on = true)
    (hfg : v.fg = .act (.setFrozen p true) :: .spLen dirIn ::
      (actSteps [.spPhase .idle, .spPipe 0, .spRem 0, .spOff 0, .spBuf 0, .critSofPop] ++ [.act .resStatus])) :
    RunsTo 10 (u.spAt p v)
      ((u.spClosed dirIn v.sp.off v.st).spAt p { v with frozen := true, sp := SpRegs.idle, fg := [] }) := by
  let clearing : List Act := [.spPhase .idle, .spPipe 0, .spRem 0, .spOff 0, .spBuf 0]
  let closing : List Micro := actSteps clearing ++ [.act .critSofPop, .act .resStatus]
  let counted : State := u.setRes { u.res with len := if dirIn then BitVec.ofNat 16 v.sp.off else u.res.len }
  have hfrozen := RunsTo.spActs (l := [.setFrozen p true]) (rest := .spLen dirIn :: closing) ha hon hfg
    (by simp [Act.ofPump])
  have hlen : RunsTo 2 (u.spAt p { v with frozen := true, fg := .spLen dirIn :: closing })
      (counted.spAt p { v with frozen := true, fg := closing }) := by
    cases dirIn
    · exact .mono (.spMicro rfl rfl) (Nat.le_succ 1)
    · exact (RunsTo.spMicro (w := { v with frozen := true, fg := .act (.resLen v.sp.off) :: closing }) rfl rfl).trans
        (.spAct rfl rfl)
  have hcleared := (hfrozen.trans hlen).trans (.spActs (l := clearing) ha hon rfl rfl)
  exact (hcleared.trans (.spAct (u' := counted.sofPop) rfl rfl)).trans
    (.spAct (u' := u.spClosed dirIn v.sp.off v.st) rfl rfl)

/-- The exit with `Good`. -/
theorem RunsTo.spExitGood (ha : (u.pipe p).alloc = true) (hon : v.pipe.on = true) (hst : v.st = Status.good)
    (hfg : v.fg = [.spExit p dirIn, .act .resStatus]) :
    RunsTo 12 (u.spAt p v) ((u.spClosed dirIn v.sp.off Status.good).spAt p { v with
      pipe := { v.pipe with frozen := true }, frozen := true, out := v.out ++ [.freezePipe p]
      sp := SpRegs.idle, st := Status.good, fg := [] }) := by
  have hexit : RunsTo 1 (u.spAt p v)
      (u.spAt p { v with st := Status.good, fg := spExitSteps p dirIn Status.good ++ [.act .resStatus] }) :=
    .spMicro hfg (by rw [← hst]; simp only [micro, State.spAt_st, hst]; rfl)
  have hfreeze := hexit.trans (.spActs (l := [.hal (.freezePipe p)]) ha hon rfl
    (by simp [Act.ofPump, HalAction.drives]))
  exact hfreeze.trans (.spLeave ha hon rfl)

/-- An acknowledgement under a test: what the reset that follows makes of the pipe is the same. -/
theorem RunsTo.spAck {m : Micro} {b : Bool} {a : HalAction} (ha : (u.pipe p).alloc = true) (hon : v.pipe.on = true)
    (hfg : v.fg = m :: rest) (hm : micro m (u.spAt p { v with fg := rest }) =
      Machine.onlyIf b [halStep a] (u.spAt p { v with fg := rest }))
    (hd : a.drives p = true) (hreset : (v.pipe.driven a).reset = v.pipe.reset) :
    ∃ (h : HalPipe) (out : List HalAction), h.on = true ∧ h.reset = v.pipe.reset ∧
      RunsTo 2 (u.spAt p v) (u.spAt p { v with pipe := h, out := out, fg := rest }) := by
  cases b with
  | false => exact ⟨v.pipe, v.out, hon, rfl, .mono (.spMicro hfg hm) (Nat.le_succ 1)⟩
  | true =>
    have hacked := (RunsTo.spMicro (w := { v with fg := halStep a :: rest }) hfg hm).trans
      (.spActs (l := [.hal a]) ha hon rfl (by simpa [Act.ofPump] using hd))
    exact ⟨v.pipe.driven a, v.out ++ [a], by rw [HalPipe.driven_on, hon], hreset, hacked⟩

/-- The exit with another status than `Good`: the pipe is reset and frozen. -/
theorem RunsTo.spExitFailed (ha : (u.pipe p).alloc = true) (hon : v.pipe.on = true) (hst : v.st ≠ Status.good)
    (hfg : v.fg = [.spExit p dirIn, .act .resStatus]) :
    ∃ out, RunsTo 16 (u.spAt p v) ((u.spClosed dirIn v.sp.off v.st).spAt p { v with
      pipe := v.pipe.reset, frozen := true, out := out, sp := SpRegs.idle, fg := [] }) := by
  let leaving : List Micro := .act (.setFrozen p true) :: .spLen dirIn ::
    (actSteps [.spPhase .idle, .spPipe 0, .spRem 0, .spOff 0, .spBuf 0, .critSofPop] ++ [.act .resStatus])
  let resetting : List Micro := halStep (.resetPipe p) :: leaving
  have hexit : RunsTo 1 (u.spAt p v) (u.spAt p { v with fg := .spAckErrors p :: .spAckStall p :: resetting }) :=
    .spMicro hfg (by rw [micro, State.spAt_st, spExitSteps, if_pos hst]; rfl)
  obtain ⟨h, out, hon', hreset, herrors⟩ := RunsTo.spAck (u := u)
    (v := { v with fg := .spAckErrors p :: .spAckStall p :: resetting }) (a := .ackErrors p) ha hon rfl rfl
    (by simp [HalAction.drives]) rfl
  obtain ⟨h', out', hon'', hreset', hstall⟩ := RunsTo.spAck (u := u)
    (v := { v with pipe := h, out := out, fg := .spAckStall p :: resetting }) (a := .ackStall p) ha hon' rfl rfl
    (by simp [HalAction.drives]) rfl
  have hreseted := ((hexit.trans herrors).trans hstall).trans (.spActs (l := [.hal (.resetPipe p)]) (rest := leaving) ha
    hon'' rfl (by simp [Act.ofPump, HalAction.drives]))
  have hleft := hreseted.trans (.spLeave ha hon'' rfl)
  refine ⟨out' ++ [.resetPipe p], ?_⟩
  rw [← hreset, ← hreset']
  exact hleft

/-- A poll that raises a status, and the exit it goes to. -/
theorem RunsTo.spRaised {w : SpView} {m : Micro} {st : Status} (ha : (u.pipe p).alloc = true) (hon : w.pipe.on = true)
    (hst : st ≠ Status.good) (hfg : v.fg = m :: rest)
    (hexit : rest.dropWhile (fun m => !m.isSpExit) = [.spExit p dirIn, .act .resStatus])
    (hm : micro m (u.spAt p { v with fg := rest }) = .ran ((u.spAt p { w with fg := rest }).raise Micro.isSpExit st)) :
    ∃ out, RunsTo 17 (u.spAt p v) ((u.spClosed dirIn w.sp.off st).spAt p { w with
      pipe := w.pipe.reset, frozen := true, out := out, sp := SpRegs.idle, st := st, fg := [] }) := by
  have hraised : RunsTo 1 (u.spAt p v)
      (u.spAt p { w with st := st, fg := rest.dropWhile fun m => !m.isSpExit }) := .spMicro hfg hm
  rw [hexit] at hraised
  obtain ⟨out, hfailed⟩ := RunsTo.spExitFailed (u := u) (dirIn := dirIn)
    (v := { w with st := st, fg := [.spExit p dirIn, .act .resStatus] }) ha hon hst rfl
  exact ⟨out, hraised.trans hfailed⟩

end

end Sys2Proof.Machine
end

section
/-! PROOFS. The family `43_sync_pump.md`: SEND_DATA (rule R300), packet by packet, and its delay timeout (rule R325). -/

namespace Sys2Proof.Machine

/-! ### One OUT packet -/

section
variable {p : Nat} {u : State} {v : SpView} {rest : List Micro} {n : Nat}

/-- Bytes of a host buffer, given to the FIFO one after another. -/
theorem acts_fifoFromHost (ha : (u.pipe p).alloc = true) (hon : v.pipe.on = true) (b off : Nat) (ks : List Nat) :
    ∃ fifo, acts (ks.map fun k => Act.fifoFromHost p b (off + k)) (u.spAt p v) = u.spAt p { v with
      pipe := { v.pipe with fifo := fifo }
      out := v.out ++ ks.map fun k => HalAction.fifoWrite p (u.hostByte b (off + k)) } := by
  induction ks generalizing v with
  | nil => exact ⟨v.pipe.fifo, by simp [acts]⟩
  | cons k ks ih =>
    obtain ⟨f, hf⟩ := State.spAt_fifoWrite ha hon (u.hostByte b (off + k))
    obtain ⟨g, hg⟩ := ih (v := { v with
      pipe := { v.pipe with fifo := f }, out := v.out ++ [.fifoWrite p (u.hostByte b (off + k))] }) hon
    refine ⟨g, ?_⟩
    simp only [List.map_cons, acts, act, State.spAt_hostByte, hf, hg, List.append_assoc, List.cons_append,
      List.nil_append]

/-- The HAL actions of an OUT packet of `n` bytes from offset `off` of host buffer `b`, up to its hand-over. -/
def State.outActions (p b off n : Nat) (u : State) : List HalAction :=
  ((List.range n).map fun k => HalAction.fifoWrite p (u.hostByte b (off + k))) ++ [.unfreezePipe p, .sendOut p]

/-- What follows the wait of an OUT packet of `n` bytes. -/
def spOutAfter (p n : Nat) : List Act := [.hal (.ackOut p), .spMoveOff n, .spMoveRem n]

/-- The view of a pump that waits for the device to take an OUT packet of `n` bytes. -/
def SpView.sending (v : SpView) (u : State) (p n : Nat) (fifo : List Byte) (rest : List Micro) : SpView :=
  { v with
    pipe := { v.pipe with fifo := fifo, frozen := false, sent := true }, frozen := false
    out := v.out ++ u.outActions p v.sp.buf v.sp.off n, tmo := 0, nakcnt := 0
    fg := .spPoll p false :: (actSteps (spOutAfter p n) ++ .spOutLoop p :: rest) }

/-- An OUT packet, up to the wait for the device to take it. -/
theorem RunsTo.spOutSend (ha : (u.pipe p).alloc = true) (hon : v.pipe.on = true) (hrem : 0 < v.sp.rem)
    (hn : n = min v.sp.rem (u.pipe p).mps) (hfg : v.fg = .spOutLoop p :: rest) :
    ∃ fifo, RunsTo (n + 6) (u.spAt p v) (u.spAt p (v.sending u p n fifo rest)) := by
  let sends : List Act := [.hal (.unfreezePipe p), .setFrozen p false, .hal (.sendOut p), .zeroTmo, .zeroNakcnt]
  let writes : List Act := (List.range n).map fun k => Act.fifoFromHost p v.sp.buf (v.sp.off + k)
  let waiting : List Micro := .spPoll p false :: (actSteps (spOutAfter p n) ++ .spOutLoop p :: rest)
  have hloop : RunsTo 1 (u.spAt p v) (u.spAt p { v with fg := actSteps (writes ++ sends) ++ waiting }) := by
    have hpush : micro (.spOutLoop p) (u.spAt p { v with fg := rest }) =
        Machine.thenDo (Machine.spOutPacket p v.sp.buf v.sp.off n) (u.spAt p { v with fg := rest }) := by
      simp only [micro, State.spAt_sp, State.spAt_pipe_self, if_pos hrem, hn]
    refine .spMicro hfg (hpush.trans ?_)
    simp [Machine.spOutPacket, Machine.thenDo, spOutAfter, actSteps, writes, sends, waiting]
  obtain ⟨fifo, hwrites⟩ := acts_fifoFromHost (u := u) (v := { v with fg := waiting }) ha hon v.sp.buf v.sp.off
    (List.range n)
  let written : SpView := { v with
    pipe := { v.pipe with fifo := fifo }
    out := v.out ++ (List.range n).map fun k => HalAction.fifoWrite p (u.hostByte v.sp.buf (v.sp.off + k))
    fg := waiting }
  have hsent : acts (writes ++ sends) (u.spAt p { v with fg := waiting }) =
      u.spAt p (sends.foldl SpView.after written) := by
    rw [acts_append, hwrites]
    exact acts_spAt (v := written) ha hon (by simp [sends, Act.ofPump, HalAction.drives])
  have hacts := RunsTo.of_acts (l := writes ++ sends) (State.spAt_calm p u
    { v with fg := actSteps (writes ++ sends) ++ waiting }) rfl
  rw [State.spAt_setFg, hsent] at hacts
  refine ⟨fifo, ?_⟩
  have hsteps : 1 + (writes ++ sends).length = n + 6 := by
    simp only [writes, sends, List.length_append, List.length_map, List.length_range, List.length_cons, List.length_nil]
    omega
  rw [← hsteps]
  simpa [SpView.after, HalPipe.driven, HalPipe.respond, SpView.sending, State.outActions, sends, written, waiting] using
    hloop.trans hacts

/-- An OUT packet that the device takes. -/
theorem RunsTo.spOutPacket {es : List Event} (hu : u.SpRunning p) (hi : v.pipe.Idle) (hrem : 0 < v.sp.rem)
    (hn : n = min v.sp.rem (u.pipe p).mps) (hfg : v.fg = .spOutLoop p :: rest) (hes : v.events = .outReady p :: es) :
    RunsTo (n + 11) (u.spAt p v) (u.spAt p { v with
      pipe := { v.pipe with frozen := false, fifo := [], sent := false, outReady := false }, frozen := false
      out := v.out ++ u.outActions p v.sp.buf v.sp.off n ++ [.ackOut p]
      sp := { v.sp with off := v.sp.off + n, rem := v.sp.rem - n }
      st := Status.good, tmo := 0, nakcnt := 0, fg := .spOutLoop p :: rest, events := es }) := by
  obtain ⟨fifo, hsend⟩ := RunsTo.spOutSend hu.alloc hi.on hrem hn hfg
  have hwait := hsend.trans (.spWait (v := v.sending u p n fifo rest) hu { hi with } rfl rfl hes
    (occur_outReady_spAt hu.sofgen) rfl)
  have hacked := hwait.trans (.spActs (l := spOutAfter p n) hu.alloc
    (by simpa [HalPipe.bankFree, SpView.sending] using hi.on) rfl
    (by simp [spOutAfter, Act.ofPump, HalAction.drives]))
  simpa [SpView.after, HalPipe.driven, HalPipe.respond, HalPipe.bankFree, SpView.sending, spOutAfter] using hacked

end

/-! ### The loop of SEND_DATA (rule R300) -/

/-- What a pump that has sent `m` packets has done since `v`: it gave the FIFO the bytes still to be sent, it handed over `m`
packets, and it goes on with `Good`. -/
structure SpView.Sent (p : Nat) (u : State) (v w : SpView) (m : Nat) (rest : List Micro) : Prop where
  on : w.pipe.on = true
  st : w.st = Status.good
  fg : w.fg = rest
  events : w.events = []
  bytes : fifoBytes p (hals w.out) = fifoBytes p (hals v.out) ++
    (List.range v.sp.rem).map fun k => u.hostByte v.sp.buf (v.sp.off + k)
  packets : w.out.count (.sendOut p) = v.out.count (.sendOut p) + m

theorem fifoBytes_outActions (p b off n : Nat) (u : State) :
    fifoBytes p (hals (u.outActions p b off n)) = (List.range n).map fun k => u.hostByte b (off + k) := by
  rw [State.outActions, fifoBytes_hals_append, fifoBytes_hals_fifoWrite]
  simp [fifoBytes, hals]

theorem count_sendOut_outActions (p b off n : Nat) (u : State) : (u.outActions p b off n).count (.sendOut p) = 1 := by
  have hwrites : HalAction.sendOut p ∉ (List.range n).map fun k => HalAction.fifoWrite p (u.hostByte b (off + k)) := by
    simp
  rw [State.outActions, List.count_append, List.count_eq_zero.mpr hwrites]
  simp

theorem RunsTo.spOutPackets {p m : Nat} {u : State} {v : SpView} {rest : List Micro} (hu : u.SpRunning p)
    (hi : v.pipe.Idle) (hle : v.sp.rem ≤ m * (u.pipe p).mps) (hlt : m * (u.pipe p).mps < v.sp.rem + (u.pipe p).mps)
    (hfg : v.fg = .spOutLoop p :: rest) (hes : v.events = List.replicate m (.outReady p)) :
    ∃ w, RunsTo (12 * v.sp.rem + 2) (u.spAt p v) (u.spAt p w) ∧ v.Sent p u w m rest := by
  induction m generalizing v with
  | zero =>
    have hrem : v.sp.rem = 0 := by omega
    have hdone : micro (.spOutLoop p) (u.spAt p { v with fg := rest }) =
        .ran (u.spAt p { v with fg := .act (.setStatus Status.good) :: rest }) := if_neg (by simp [hrem])
    have hend := (RunsTo.spMicro hfg hdone).trans (.spActs (l := [.setStatus Status.good]) hu.alloc hi.on rfl rfl)
    exact ⟨_, hend.mono (Nat.le_add_left 2 _), hi.on, rfl, rfl, hes, by simp [SpView.after, hrem], rfl⟩
  | succ m ih =>
    rw [Nat.succ_mul] at hle hlt
    let n := min v.sp.rem (u.pipe p).mps
    have hpacket := RunsTo.spOutPacket (n := n) hu hi (by omega) rfl hfg hes
    let sent : SpView := { v with
      pipe := { v.pipe with frozen := false, fifo := [], sent := false, outReady := false }, frozen := false
      out := v.out ++ u.outActions p v.sp.buf v.sp.off n ++ [.ackOut p]
      sp := { v.sp with off := v.sp.off + n, rem := v.sp.rem - n }
      st := Status.good, tmo := 0, nakcnt := 0, fg := .spOutLoop p :: rest
      events := List.replicate m (.outReady p) }
    have hrem : sent.sp.rem = v.sp.rem - n := rfl
    obtain ⟨w, hrun, hsent⟩ := ih (v := sent) { hi with outReady := rfl } (by omega) (by omega) rfl rfl
    refine ⟨w, (hpacket.trans hrun).mono (by omega), hsent.on, hsent.st, hsent.fg, hsent.events, ?_, ?_⟩
    · have hn : v.sp.rem = n + (v.sp.rem - n) := by omega
      have hnone : fifoBytes p (hals [HalAction.ackOut p]) = [] := rfl
      rw [hsent.bytes, fifoBytes_hals_append, fifoBytes_hals_append, fifoBytes_outActions, hnone, hn, ← range_append_map]
      simp [sent, Nat.add_assoc]
    · rw [hsent.packets, List.count_append, List.count_append, count_sendOut_outActions]
      simp [Nat.add_assoc, Nat.add_comm]

/-! ### SEND_DATA when the device takes every packet -/

/-- The whole run of a SEND_DATA whose packets the device takes. -/
theorem RunsTo.spSend {s : State} {p m : Nat} (h : PumpReady s p false)
    (hle : s.args.len.toNat ≤ m * (s.pipe p).mps) (hlt : m * (s.pipe p).mps < s.args.len.toNat + (s.pipe p).mps)
    (hin : s.inputs = atWait (List.replicate m (.outReady p))) :
    ∃ (off : Nat) (pipe : HalPipe) (out : List HalAction) (tmo nakcnt : Nat),
      RunsTo (12 * s.args.len.toNat + 21) (s.setFg (spProg p false s.args.buf s.args.len.toNat))
        ((s.sofPush.spClosed false off Status.good).spAt p (.returned pipe out tmo nakcnt)) ∧
      fifoBytes p (hals out) = s.hostBytes s.args.buf 0 s.args.len.toNat ∧ out.count (.sendOut p) = m := by
  have hu := h.spRunning
  have henter := RunsTo.spEnter h (buf := s.args.buf) (len := s.args.len.toNat) hin
  obtain ⟨w, hpackets, hsent⟩ := RunsTo.spOutPackets (m := m) (rest := [.spExit p false, .act .resStatus])
    (v := .entered s p false s.args.buf s.args.len.toNat _) hu { h.idle with } hle hlt rfl rfl
  have hexit := (henter.trans hpackets).trans (.spExitGood hu.alloc hsent.on hsent.st hsent.fg)
  rw [hsent.events] at hexit
  refine ⟨_, _, _, _, _, hexit.mono ?_, ?_, ?_⟩
  · simp only [SpView.entered]
    omega
  · have hnone : fifoBytes p (hals [HalAction.setToken p .send]) = [] ∧
      fifoBytes p (hals [HalAction.freezePipe p]) = [] := ⟨rfl, rfl⟩
    rw [fifoBytes_hals_append, hsent.bytes]
    simp [SpView.entered, hnone, State.hostBytes]
  · rw [List.count_append, hsent.packets]
    simp [SpView.entered]

/-- The entries of the PIPE table after a pump on pipe `p` that has left the pipe frozen. -/
theorem State.spAt_pipe_of_frozen {u : State} {p : Nat} {v : SpView} (h : v.frozen = true) (q : Nat) :
    (u.spAt p v).pipe q = if q = p then { u.pipe q with frozen := true } else u.pipe q := by
  rw [State.spAt_pipe, h]
  split <;> simp [*]

theorem count_hal_hals (a : HalAction) (l : List HalAction) : (hals l).count (.hal a) = l.count a :=
  List.count_map_of_injective l Output.hal (fun _ _ => Output.hal.inj) a

/-- Settles O35: the run, packet by packet, of a SEND_DATA whose packets the device takes. -/
theorem sendDataCompletes : Obligations.SendDataCompletes := by
  intro s p hready hmps hin
  obtain ⟨hle, hlt⟩ := ceilDiv_bounds s.args.len.toNat hmps
  obtain ⟨off, pipe, out, tmo, nakcnt, hrun, hbytes, hpackets⟩ := RunsTo.spSend hready hle hlt hin
  have hfuel : 12 * s.args.len.toNat + 21 ≤ burst := by
    have := s.args.len.isLt
    simp only [burst]
    omega
  have hexec := (exec_sendData hready).trans (hrun.run_eq hfuel rfl)
  refine ⟨_, hals out, hexec, rfl, rfl, hbytes, ?_, State.spAt_pipe_of_frozen rfl, ?_⟩
  · rw [← List.count_eq_length_filter, count_hal_hals, hpackets]
  · rw [State.spAt, hready.fg]
    rfl

/-! ### The delay timeout (rule R325) -/

/-- What is not the view's of a state after `n` starts of frame: with none it is as it was. -/
def State.framesSeen (n : Nat) (u : State) : State := if n = 0 then u else u.framedBy n

theorem State.framesSeen_framedBy (n : Nat) (u : State) : (u.framedBy 1).framesSeen n = u.framesSeen (n + 1) := by
  unfold State.framesSeen
  split
  next h => rw [h]; rfl
  next h => rw [State.framedBy_framedBy, if_neg (Nat.succ_ne_zero n)]

section
variable (n : Nat) (u : State)

@[simp] theorem State.framesSeen_cfg : (u.framesSeen n).cfg = u.cfg := by unfold State.framesSeen; split <;> rfl
@[simp] theorem State.framesSeen_en : (u.framesSeen n).en = u.en := by unfold State.framesSeen; split <;> rfl
@[simp] theorem State.framesSeen_cache : (u.framesSeen n).cache = u.cache := by unfold State.framesSeen; split <;> rfl
@[simp] theorem State.framesSeen_hbuf : (u.framesSeen n).hbuf = u.hbuf := by unfold State.framesSeen; split <;> rfl

end

theorem State.SpRunning.framedBy {u : State} {p : Nat} (h : u.SpRunning p) (n : Nat) : (u.framedBy n).SpRunning p :=
  ⟨h.emerg, h.sofgen, h.alloc, h.delay⟩

theorem State.SpRunning.framesSeen {u : State} {p : Nat} (h : u.SpRunning p) (n : Nat) :
    (u.framesSeen n).SpRunning p := by
  unfold State.framesSeen
  split
  · exact h
  · exact h.framedBy n

/-- So many starts of frame at a packet wait as the delay timeout leaves. -/
theorem RunsTo.spFramesAtWait {n p : Nat} {dirIn : Bool} {u : State} {v : SpView} {rest : List Micro}
    (hu : u.SpRunning p) (hsof : OnlySof u) (hie : u.en.sofie = true) (hi : v.pipe.Idle)
    (hb : v.tmo + n ≤ u.cfg.delayTimeoutSof) (hmax : u.cfg.delayTimeoutSof ≤ 0xFFFF)
    (hfg : v.fg = .spPoll p dirIn :: rest) (hes : v.events = frames n) :
    RunsTo (2 * n) (u.spAt p v) ((u.framesSeen n).spAt p { v with tmo := v.tmo + n, events := [] }) := by
  induction n generalizing u v with
  | zero =>
    rw [Nat.add_zero, ← show v.events = [] from hes]
    exact .refl _
  | succ n ih =>
    have hlt : v.tmo < u.cfg.delayTimeoutSof := by omega
    have hframe := RunsTo.spFrame (es := frames n) hu hsof hie (hlt.trans_le hmax) hfg hes
      fun b es => spPoll_of_early (u := { u with hal := { u.hal with sof := b } }) (v := { v with events := es })
        hu.emerg hi hlt hfg
    have hrest := ih (u := u.framedBy 1) (v := { v with tmo := v.tmo + 1, events := frames n }) (hu.framedBy 1) hsof hie
      hi (by simp only [State.framedBy_cfg]; omega) hmax hfg rfl
    rw [State.framesSeen_framedBy, Nat.add_right_comm, Nat.add_assoc v.tmo] at hrest
    exact (hframe.trans hrest).mono (by omega)

theorem Config.legal_delayTimeout {c : Config} (h : c.legal = true) : c.delayTimeoutSof < 0xFFFF := by
  simp only [Config.legal, Bool.and_eq_true, decide_eq_true_eq] at h
  omega

/-- The view of a SEND_DATA that waits for the device to take its first packet, after `n` starts of frame. -/
def SpView.firstWait (s : State) (p n : Nat) (fifo : List Byte) : SpView :=
  { (SpView.entered s p false s.args.buf s.args.len.toNat []).sending s.sofPush p
      (min s.args.len.toNat (s.pipe p).mps) fifo [.spExit p false, .act .resStatus] with tmo := n }

/-- A SEND_DATA that has something to send, up to its first wait, and so many starts of frame there as the delay timeout
leaves. -/
theorem RunsTo.spFirstWait {s : State} {p n : Nat} (h : PumpReady s p false) (hsof : OnlySof s)
    (hmax : s.cfg.delayTimeoutSof ≤ 0xFFFF) (hlen : 0 < s.args.len.toNat) (hn : n ≤ s.cfg.delayTimeoutSof)
    (hin : s.inputs = atWait (frames n)) :
    ∃ fifo, RunsTo (s.args.len.toNat + 13 + 2 * n) (s.setFg (spProg p false s.args.buf s.args.len.toNat))
      ((s.sofPush.framesSeen n).spAt p (.firstWait s p n fifo)) := by
  have henter := RunsTo.spEnter h (buf := s.args.buf) (len := s.args.len.toNat) hin
  obtain ⟨fifo, hsend⟩ := RunsTo.spOutSend (u := s.sofPush) (n := min s.args.len.toNat (s.pipe p).mps)
    (v := .entered s p false s.args.buf s.args.len.toNat (frames n)) h.spRunning.alloc h.idle.on hlen
    rfl rfl
  have hframes := RunsTo.spFramesAtWait (v := { SpView.firstWait s p 0 fifo with events := frames n })
    h.spRunning hsof rfl { h.idle with } ((Nat.zero_add n).trans_le hn) hmax rfl rfl
  have hwait := (henter.trans hsend).trans hframes
  simp only [SpView.firstWait, Nat.zero_add] at hwait
  exact ⟨fifo, hwait.mono (by omega)⟩

/-- Settles O37: each frame at the wait counts one, and the poll after the last of the budget ends the operation. -/
theorem delayTimeoutExact : Obligations.DelayTimeoutExact := by
  intro s p n hready hlegal hsof hen hlen _ hn hin
  have hmax := Config.legal_delayTimeout hlegal
  obtain ⟨fifo, hwait⟩ := RunsTo.spFirstWait hready hsof hmax.le hlen hn hin
  have hfuel : s.args.len.toNat + 13 + 2 * n + 17 < burst := by
    have := s.args.len.isLt
    simp only [burst]
    omega
  let u := s.sofPush.framesSeen n
  let v := SpView.firstWait s p.toNat n fifo
  have hidle : v.pipe.Idle := { hready.idle with }
  have hu : u.SpRunning p.toNat := hready.spRunning.framesSeen n
  have hcfg : u.cfg = s.cfg := State.framesSeen_cfg ..
  rcases hn.lt_or_eq with hlt | hspent
  · have hexec := hwait.run_waiting (n := burst) (by omega) rfl rfl
      (spPoll_of_early (v := v) hu.emerg hidle (hcfg ▸ hlt) rfl)
    exact ⟨_, (exec_sendData hready).trans hexec, rfl, .of_eq (by simp) (by simp),
      fun _ => ⟨List.cons_ne_nil _ _, rfl, rfl⟩, fun heq => absurd heq hlt.ne⟩
  · obtain ⟨out, hfail⟩ := RunsTo.spRaised (v := v) (dirIn := false) hu.alloc hidle.on
      (by decide : Status.delayTimeout ≠ Status.good) rfl rfl
      (spPoll_of_spent (u := u) (v := { v with fg := v.fg.tail }) hu.emerg (hcfg ▸ hen) hidle
        (hcfg ▸ hspent.ge))
    have hexec := (hwait.trans hfail).run_eq (n := burst) hfuel.le rfl
    exact ⟨_, (exec_sendData hready).trans hexec, rfl, .of_eq (by simp [u]) (by simp [u]),
      fun hlt => absurd hspent hlt.ne, fun _ => ⟨rfl, rfl, rfl, by simp, by simp [u, State.sofPush]⟩⟩

end Sys2Proof.Machine
end

section
/-! PROOFS. The family `43_sync_pump.md`: GET_DATA (rule R310), the wait for its packet, and its NAK budget (rule R321). -/

namespace Sys2Proof.Machine

/-! ### Asking for an IN packet -/

section
variable {p : Nat} {u : State} {v : SpView} {rest : List Micro}

/-- The view of a pump that waits for an IN packet. -/
def SpView.asking (v : SpView) (p : Nat) (rest : List Micro) : SpView :=
  { v with
    pipe := { v.pipe with frozen := false }, frozen := false, out := v.out ++ [.unfreezePipe p, .sendIn p]
    sp := { v.sp with phase := .receiving }, tmo := 0, nakcnt := 0
    fg := .spPoll p true :: (actSteps [.hal (.freezePipe p), .setFrozen p true] ++ .spInTake p :: rest) }

/-- An IN packet, up to the wait for it. -/
theorem RunsTo.spInAsk (ha : (u.pipe p).alloc = true) (hon : v.pipe.on = true) (hrem : 0 < v.sp.rem)
    (hfg : v.fg = .spInLoop p :: rest) : RunsTo 7 (u.spAt p v) (u.spAt p (v.asking p rest)) := by
  let asks : List Act := [.spPhase .receiving, .hal (.unfreezePipe p), .setFrozen p false, .hal (.sendIn p), .zeroTmo,
    .zeroNakcnt]
  have hloop : RunsTo 1 (u.spAt p v) (u.spAt p { v with fg := actSteps asks ++ (v.asking p rest).fg }) :=
    .spMicro hfg (if_pos hrem)
  have hasked := hloop.trans (.spActs (l := asks) ha hon rfl (by simp [asks, Act.ofPump, HalAction.drives]))
  simpa [SpView.after, HalPipe.driven, HalPipe.respond, SpView.asking, asks] using hasked

/-- A GET_DATA to which nothing is left to receive ends its loop with `Good`. -/
theorem RunsTo.spInDone (ha : (u.pipe p).alloc = true) (hon : v.pipe.on = true) (hrem : v.sp.rem = 0)
    (hfg : v.fg = .spInLoop p :: rest) :
    RunsTo 2 (u.spAt p v) (u.spAt p { v with st := Status.good, fg := rest }) := by
  have hdone : micro (.spInLoop p) (u.spAt p { v with fg := rest }) =
      .ran (u.spAt p { v with fg := .act (.setStatus Status.good) :: rest }) := if_neg (by simp [hrem])
  exact (RunsTo.spMicro hfg hdone).trans (.spActs (l := [.setStatus Status.good]) ha hon rfl rfl)

end

/-! ### The NAK budget (rule R320, rule R321) -/

section
variable {p : Nat} {dirIn : Bool} {u : State} {v : SpView} {rest : List Micro}

/-- The view after a NAK that has been counted and acknowledged. -/
def SpView.nakCounted (v : SpView) (p : Nat) : SpView :=
  { v with nakcnt := v.nakcnt + 1, out := v.out ++ [.ackNak p] }

/-- A poll that finds a NAK and nothing else. -/
theorem spPoll_of_nak (hu : u.SpRunning p) (hen : u.cfg.nakTimeoutEn = true) (htyp : (u.pipe p).typ ≠ .interrupt)
    (hi : v.pipe.Idle) (ht : v.tmo < u.cfg.delayTimeoutSof) :
    micro (.spPoll p dirIn) (u.spAt p { v with pipe := { v.pipe with nak := true } }) =
      if nakBudget u.cfg dirIn ≤ v.nakcnt + 1 then
        .ran ((u.spAt p (v.nakCounted p)).raise Micro.isSpExit Status.nakTimeout)
      else .ran (u.spAt p { v.nakCounted p with fg := .spPoll p dirIn :: v.fg }) := by
  let nakked : SpView := { v with pipe := { v.pipe with nak := true } }
  have hacked : (u.spAt p nakked).doHal (.ackNak p) = u.spAt p { v with out := v.out ++ [.ackNak p] } := by
    have hpipe : nakked.pipe.driven (.ackNak p) = v.pipe := by
      rw [HalPipe.driven, ← hi.nak]
    rw [State.spAt_doHal (v := nakked) hu.alloc hi.on (by simp [HalAction.drives]), hpipe]
  have hr := hi.not_ready dirIn
  rw [HalPipe.ready] at hr
  rw [spWaitOrder, hacked]
  simp [hr, hu.emerg, Nat.not_le.mpr ht, hi.error, hi.stall, hen, htyp, nakBudget]
  rfl

/-- A NAK at a packet wait, below the budget. -/
theorem RunsTo.spNak {es : List Event} (hu : u.SpRunning p) (hen : u.cfg.nakTimeoutEn = true)
    (htyp : (u.pipe p).typ ≠ .interrupt) (hi : v.pipe.Idle) (ht : v.tmo < u.cfg.delayTimeoutSof)
    (hb : v.nakcnt + 1 < nakBudget u.cfg dirIn) (hfg : v.fg = .spPoll p dirIn :: rest) (hes : v.events = .nak p :: es) :
    RunsTo 2 (u.spAt p v) (u.spAt p { v.nakCounted p with events := es }) := by
  let nakked : SpView := { v with pipe := { v.pipe with nak := true }, events := es }
  have hpending : RunsTo 1 (u.spAt p v) (u.spAt p nakked) :=
    .spPending hfg hes (spPoll_of_early hu.emerg hi ht hfg) (occur_nak_spAt hu.sofgen)
  have hcounted := (spPoll_of_nak (v := { v with fg := rest, events := es }) hu hen htyp hi ht).trans
    (if_neg (Nat.not_le.mpr hb))
  have hpoll : RunsTo 1 (u.spAt p nakked) (u.spAt p { v.nakCounted p with fg := .spPoll p dirIn :: rest, events := es }) :=
    .spMicro hfg hcounted
  rw [← hfg] at hpoll
  exact hpending.trans hpoll

/-- So many NAKs at a packet wait as stay below the budget. -/
theorem RunsTo.spNaks {n : Nat} {es : List Event} (hu : u.SpRunning p) (hen : u.cfg.nakTimeoutEn = true)
    (htyp : (u.pipe p).typ ≠ .interrupt) (hi : v.pipe.Idle) (ht : v.tmo < u.cfg.delayTimeoutSof)
    (hb : v.nakcnt + n < nakBudget u.cfg dirIn) (hfg : v.fg = .spPoll p dirIn :: rest)
    (hes : v.events = List.replicate n (.nak p) ++ es) :
    ∃ out, RunsTo (2 * n) (u.spAt p v) (u.spAt p { v with nakcnt := v.nakcnt + n, out := out, events := es }) := by
  induction n generalizing v with
  | zero =>
    refine ⟨v.out, ?_⟩
    rw [Nat.add_zero, ← show v.events = es from hes]
    exact .refl _
  | succ n ih =>
    have hnext : v.events = .nak p :: (List.replicate n (.nak p) ++ es) := hes
    have hnak := RunsTo.spNak hu hen htyp hi ht (by omega) hfg hnext
    obtain ⟨out, hrest⟩ := ih (v := { v.nakCounted p with events := List.replicate n (.nak p) ++ es }) hi ht
      (by simp only [SpView.nakCounted]; omega) hfg rfl
    simp only [SpView.nakCounted, Nat.add_right_comm v.nakcnt 1 n] at hrest
    exact ⟨out, (hnak.trans hrest).mono (by omega)⟩

end

theorem Config.legal_nakReceiveBudget {c : Config} (h : c.legal = true) :
    1 ≤ c.nakReceiveBudget ∧ c.nakReceiveBudget < 0xFFFF := by
  simp only [Config.legal, Bool.and_eq_true, decide_eq_true_eq] at h
  omega

/-- The view of a GET_DATA that waits for its first packet, after `n` NAKs. -/
def SpView.firstAsk (s : State) (p n : Nat) (out : List HalAction) (es : List Event) : SpView :=
  { (SpView.entered s p true s.args.buf s.args.len.toNat es).asking p [.spExit p true, .act .resStatus] with
    nakcnt := n, out := out }

/-- A GET_DATA that has room for something, up to its first wait, and so many NAKs there as stay below the budget. -/
theorem RunsTo.spFirstAsk {s : State} {p n : Nat} {es : List Event} (h : PumpReady s p true)
    (hen : s.cfg.nakTimeoutEn = true) (htyp : (s.pipe p).typ ≠ .interrupt) (hlen : 0 < s.args.len.toNat)
    (hn : n < s.cfg.nakReceiveBudget) (hin : s.inputs = atWait (List.replicate n (.nak p) ++ es)) :
    ∃ out, RunsTo (14 + 2 * n) (s.setFg (spProg p true s.args.buf s.args.len.toNat))
      (s.sofPush.spAt p (.firstAsk s p n out es)) := by
  have hu := h.spRunning
  have henter := RunsTo.spEnter h (buf := s.args.buf) (len := s.args.len.toNat) hin
  let entered := SpView.entered s p true s.args.buf s.args.len.toNat (List.replicate n (.nak p) ++ es)
  have hask := RunsTo.spInAsk (v := entered) hu.alloc h.idle.on hlen rfl
  obtain ⟨out, hnaks⟩ := RunsTo.spNaks (dirIn := true) (n := n) (es := es)
    (v := entered.asking p [.spExit p true, .act .resStatus]) hu hen htyp { h.idle with } hu.delay
    ((Nat.zero_add n).trans_lt hn) rfl rfl
  have hwait := (henter.trans hask).trans hnaks
  simp only [SpView.asking, Nat.zero_add] at hwait
  exact ⟨out, hwait⟩

/-- Settles O38: each NAK below the budget counts one, and the one that reaches it ends the operation. -/
theorem nakBudgetExact : Obligations.NakBudgetExact := by
  intro s p n hready hlegal hen htyp hlen hn hin
  obtain ⟨hpos, hmax⟩ := Config.legal_nakReceiveBudget hlegal
  have hu := hready.spRunning
  have hidle (k : Nat) (out : List HalAction) (es : List Event) : (SpView.firstAsk s p.toNat k out es).pipe.Idle :=
    { hready.idle with }
  rcases hn.lt_or_eq with hlt | hspent
  · obtain ⟨out, hwait⟩ := RunsTo.spFirstAsk (es := []) hready hen htyp hlen hlt (by rw [hin, List.append_nil])
    have hexec := hwait.run_waiting (n := burst) (by simp only [burst]; omega) rfl rfl
      (spPoll_of_early (v := .firstAsk s p.toNat n out []) hu.emerg (hidle n out []) hu.delay rfl)
    refine ⟨_, (exec_getData hready).trans hexec, rfl, .of_eq rfl rfl, fun _ => ⟨List.cons_ne_nil _ _, rfl, ?_⟩,
      fun heq => absurd heq hlt.ne⟩
    rw [State.spAt_halPipe]
    exact (hidle n out []).nak
  · obtain ⟨k, rfl⟩ := Nat.exists_eq_add_of_le' (hspent ▸ hpos)
    obtain ⟨out, hwait⟩ := RunsTo.spFirstAsk (n := k) (es := [.nak p.toNat]) hready hen htyp hlen (by omega)
      (by rw [hin, List.replicate_succ'])
    let v := SpView.firstAsk s p.toNat k out []
    let nakked : SpView := { v with pipe := { v.pipe with nak := true } }
    let before := SpView.firstAsk s p.toNat k out [.nak p.toNat]
    have hlast : RunsTo 1 (s.sofPush.spAt p.toNat before) (s.sofPush.spAt p.toNat nakked) :=
      .spPending rfl rfl (spPoll_of_early (v := before) hu.emerg (hidle k out _) hu.delay rfl) (occur_nak_spAt hu.sofgen)
    have hpoll := (spPoll_of_nak (dirIn := true) (v := { v with fg := v.fg.tail }) hu hen htyp (hidle k out [])
      hu.delay).trans (if_pos hspent.ge)
    obtain ⟨out', hfail⟩ := RunsTo.spRaised (v := nakked) (w := v.nakCounted p.toNat) (dirIn := true) hu.alloc
      (hidle k out []).on (by decide : Status.nakTimeout ≠ Status.good) rfl rfl hpoll
    have hexec := ((hwait.trans hlast).trans hfail).run_eq (n := burst) (by simp only [burst]; omega) rfl
    exact ⟨_, (exec_getData hready).trans hexec, rfl, .of_eq rfl rfl, fun hlt => absurd hspent hlt.ne,
      fun _ => ⟨rfl, rfl, by simp, rfl⟩⟩

end Sys2Proof.Machine
end

section
/-! PROOFS. The family `43_sync_pump.md`: GET_DATA (rule R310), packet by packet, with the keep-alive of a low-speed link
(rule R311). -/

namespace Sys2Proof.Machine

/-! ### A received packet -/

section
variable {p : Nat} {u : State} {v : SpView} {rest : List Micro}

/-- An IN packet that fits the FIFO, up to its arrival. -/
theorem RunsTo.spInPacket {es : List Event} {bytes : List Byte} (hu : u.SpRunning p) (hi : v.pipe.Idle)
    (htoken : v.pipe.token = .receive) (hrem : 0 < v.sp.rem) (hfit : bytes.length ≤ u.cfg.cap p)
    (hfg : v.fg = .spInLoop p :: rest) (hes : v.events = .inPacket p bytes :: es) :
    RunsTo 11 (u.spAt p v) (u.spAt p { v with
      pipe := { v.pipe with frozen := true, inReady := true, byteCount := bytes.length, fifo := bytes }, frozen := true
      out := v.out ++ [.unfreezePipe p, .sendIn p, .freezePipe p], sp := { v.sp with phase := .receiving }
      st := Status.good, tmo := 0, nakcnt := 0, fg := .spInTake p :: rest, events := es }) := by
  have hask := RunsTo.spInAsk hu.alloc hi.on hrem hfg
  have hidle : (v.asking p rest).pipe.Idle := { hi with }
  have hwait := hask.trans (.spWait hu hidle rfl rfl hes (occur_inPacket_spAt hu.sofgen hfit)
    (HalPipe.receive_inReady ..))
  have hon : ((v.asking p rest).pipe.receive bytes bytes.length).on = true := by
    simp [HalPipe.receive, hidle.inReady, hidle.on]
  have hfrozen := hwait.trans (.spActs (l := [.hal (.freezePipe p), .setFrozen p true]) hu.alloc hon rfl
    (by simp [Act.ofPump, HalAction.drives]))
  simpa [SpView.after, SpView.asking, HalPipe.driven, HalPipe.respond, HalPipe.receive, HalPipe.listening, hi.inReady,
    hi.on, htoken] using hfrozen

theorem State.spAt_readable (ha : (u.pipe p).alloc = true) (hon : v.pipe.on = true) :
    (u.spAt p v).readable p = v.pipe.fifo := by
  rw [State.readable, if_pos (State.spAt_takes ha hon _), State.spAt_halPipe]

theorem State.spAt_fifoHead {x : Byte} {xs : List Byte} (ha : (u.pipe p).alloc = true) (hon : v.pipe.on = true)
    (hx : v.pipe.fifo = x :: xs) : (u.spAt p v).fifoHead p = x := by
  rw [State.fifoHead, State.spAt_readable ha hon, hx]

theorem State.spAt_fifoPop {x : Byte} {xs : List Byte} (ha : (u.pipe p).alloc = true) (hon : v.pipe.on = true)
    (hx : v.pipe.fifo = x :: xs) : (u.spAt p v).fifoPop p =
      u.spAt p { v with pipe := { v.pipe with fifo := xs }, out := v.out ++ [.fifoRead p] } := by
  have hdraw : (u.spAt p v).drawFree p = u.spAt p v := by rw [State.drawFree, State.spAt_readable ha hon, hx]
  rw [State.fifoPop, hdraw, State.spAt_doHal ha hon (by simp [HalAction.drives]), HalPipe.driven, HalPipe.respond, hx,
    List.tail_cons]
  all_goals simp

@[simp] theorem State.store_pipe (b : CtBuf) (off : Nat) (l : List Byte) (s : State) (q : Nat) :
    (s.store b off l).pipe q = s.pipe q := by cases b <;> rfl

/-- The first `n` bytes of the FIFO, stored in a host buffer one after another. -/
theorem acts_fifoToHost {n k : Nat} (ha : (u.pipe p).alloc = true) (hon : v.pipe.on = true) (b off : Nat)
    (hn : n ≤ v.pipe.fifo.length) :
    acts ((List.range' k n).map fun j => Act.fifoToHost p b (off + j)) (u.spAt p v) =
      (u.store (.host b 0) (off + k) (v.pipe.fifo.take n)).spAt p { v with
        pipe := { v.pipe with fifo := v.pipe.fifo.drop n }, out := v.out ++ List.replicate n (.fifoRead p) } := by
  induction n generalizing u v k with
  | zero => simp [acts, State.store_nil]
  | succ n ih =>
    obtain ⟨x, xs, hx⟩ := List.exists_cons_of_length_pos (Nat.zero_lt_of_lt hn)
    rw [hx, List.length_cons] at hn
    have hbyte : act (.fifoToHost p b (off + k)) (u.spAt p v) = (u.store (.host b 0) (off + k) [x]).spAt p { v with
        pipe := { v.pipe with fifo := xs }, out := v.out ++ [.fifoRead p] } := by
      rw [act, State.spAt_fifoHead ha hon hx, State.spAt_fifoPop ha hon hx]
      rfl
    have hrest := ih (u := u.store (.host b 0) (off + k) [x]) (k := k + 1) (v := { v with
      pipe := { v.pipe with fifo := xs }, out := v.out ++ [.fifoRead p] }) (by rw [State.store_pipe, ha]) hon
      (Nat.le_of_succ_le_succ hn)
    rw [List.range'_succ, List.map_cons, acts, hbyte, hrest, hx, List.take_succ_cons,
      State.store_cons _ _ x (xs.take n), List.drop_succ_cons, List.replicate_succ]
    simp [Nat.add_assoc]

/-- A received packet is taken: what there is room for is stored, the rest dropped by the ack. -/
theorem RunsTo.spInTake (ha : (u.pipe p).alloc = true) (hon : v.pipe.on = true)
    (hcount : v.pipe.byteCount = v.pipe.fifo.length) (hfg : v.fg = .spInTake p :: rest) :
    let got := v.pipe.fifo.take v.sp.rem
    RunsTo (got.length + 4) (u.spAt p v) ((u.store (.host v.sp.buf 0) v.sp.off got).spAt p { v with
      pipe := { v.pipe with inReady := false, fifo := [] }
      out := v.out ++ List.replicate got.length (.fifoRead p) ++ [.ackIn p]
      sp := { v.sp with off := v.sp.off + got.length, rem := v.sp.rem - got.length }
      fg := .spInNext p v.pipe.byteCount :: rest }) := by
  intro got
  have hlen : got.length = min v.pipe.fifo.length v.sp.rem := by rw [List.length_take, Nat.min_comm]
  have htake : v.pipe.fifo.take got.length = got := by rw [List.length_take, ← List.take_eq_take_min]
  let reads : List Act := (List.range got.length).map fun k => Act.fifoToHost p v.sp.buf (v.sp.off + k)
  let taken : List Act := [.spMoveOff got.length, .spMoveRem got.length, .hal (.ackIn p)]
  let next : List Micro := .spInNext p v.pipe.byteCount :: rest
  have hpush : RunsTo 1 (u.spAt p v) (u.spAt p { v with fg := actSteps (reads ++ taken) ++ next }) := by
    refine .spMicro hfg ?_
    simp only [micro, Machine.spInTake, State.spAt_halPipe, State.spAt_sp, hcount, ← hlen, Machine.thenDo,
      State.spAt_push]
    simp [reads, taken, next, hcount]
  have hreads := acts_fifoToHost (v := { v with fg := next }) (n := got.length) (k := 0) ha hon v.sp.buf v.sp.off
    (hlen ▸ Nat.min_le_left ..)
  have hacts := RunsTo.of_acts (l := reads ++ taken) (State.spAt_calm p u { v with fg := actSteps (reads ++ taken) ++ next })
    rfl
  let read : SpView := { v with
    pipe := { v.pipe with fifo := v.pipe.fifo.drop got.length }
    out := v.out ++ List.replicate got.length (.fifoRead p), fg := next }
  have hstored : acts (reads ++ taken) (u.spAt p { v with fg := next }) =
      (u.store (.host v.sp.buf 0) v.sp.off got).spAt p (taken.foldl SpView.after read) := by
    rw [← List.range_eq_range', htake, Nat.add_zero] at hreads
    rw [acts_append, hreads]
    exact acts_spAt (v := read) (by rw [State.store_pipe, ha]) hon (by simp [taken, Act.ofPump, HalAction.drives])
  rw [State.spAt_setFg, hstored] at hacts
  have hsteps : 1 + (reads ++ taken).length = got.length + 4 := by
    simp only [reads, taken, List.length_append, List.length_map, List.length_range, List.length_cons, List.length_nil]
    omega
  rw [← hsteps]
  simpa [SpView.after, HalPipe.driven, HalPipe.respond, taken, read, next] using hpush.trans hacts

/-- After a packet that is short or has filled the buffer, the loop ends with `Good`. -/
theorem RunsTo.spInLast {n : Nat} (ha : (u.pipe p).alloc = true) (hon : v.pipe.on = true)
    (hend : n < (u.pipe p).mps ∨ v.sp.rem = 0) (hfg : v.fg = .spInNext p n :: rest) :
    RunsTo 3 (u.spAt p v) (u.spAt p { v with st := Status.good, fg := rest }) := by
  by_cases hshort : n < (u.pipe p).mps
  · have hnext : RunsTo 1 (u.spAt p v) (u.spAt p { v with fg := .act (.setStatus Status.good) :: rest }) :=
      .spMicro hfg (if_pos (by simpa using hshort))
    exact (hnext.trans (.spActs (l := [.setStatus Status.good]) ha hon rfl rfl)).mono (Nat.le_succ 2)
  · have hrem : v.sp.rem = 0 := hend.resolve_left hshort
    have hnext : micro (.spInNext p n) (u.spAt p { v with fg := rest }) =
        .ran (u.spAt p { v with fg := .spInLoop p :: rest }) := by
      simp [micro, Machine.spInNext, hshort, hrem, Machine.thenDo]
    exact (RunsTo.spMicro hfg hnext).trans (.spInDone ha hon hrem rfl)

end

/-! ### Between two packets (rule R311) -/

theorem State.framesSeen_framesSeen (n k : Nat) (u : State) : (u.framesSeen k).framesSeen n = u.framesSeen (n + k) := by
  unfold State.framesSeen
  by_cases hn : n = 0
  · simp [hn]
  · by_cases hk : k = 0
    · simp [hk]
    · simp [hn, hk, State.framedBy_framedBy]

theorem State.store_framesSeen (b : CtBuf) (off : Nat) (l : List Byte) (n : Nat) (u : State) :
    (u.store b off l).framesSeen n = (u.framesSeen n).store b off l := by
  unfold State.framesSeen
  split
  · rfl
  · exact State.store_framedBy ..

@[simp] theorem State.framesSeen_pipe (n : Nat) (u : State) (q : Nat) : (u.framesSeen n).pipe q = u.pipe q := by
  unfold State.framesSeen
  split <;> rfl

@[simp] theorem State.framesSeen_lowSpeed (n : Nat) (u : State) : (u.framesSeen n).hal.lowSpeed = u.hal.lowSpeed := by
  unfold State.framesSeen
  split <;> rfl

/-- What so many starts of frame change of what is not the view's. -/
theorem State.framesSeen_eq (n : Nat) (u : State) : u.framesSeen n = { u with
    flags := { u.flags with evtSof := u.flags.evtSof || decide (0 < n) }, jobs := countJobs^[n] u.jobs
    hal := { u.hal with sof := u.hal.sof && decide (n = 0) } } := by
  unfold State.framesSeen
  split
  next h => simp [h]
  next h => simp [h, Nat.pos_of_ne_zero h, State.framedBy]

/-- A GET_DATA on pipe `p` of `u` can go on, and on a low-speed link starts of frame count. -/
structure State.SpReading (p : Nat) (u : State) : Prop where
  running : u.SpRunning p
  onlySof : u.hal.lowSpeed = true → OnlySof u
  sofie : u.en.sofie = true

theorem State.SpReading.framesSeen {p : Nat} {u : State} (h : u.SpReading p) (n : Nat) : (u.framesSeen n).SpReading p := by
  have hrunning := h.running.framesSeen n
  rw [State.framesSeen_eq] at hrunning ⊢
  exact ⟨hrunning, h.onlySof, h.sofie⟩

theorem State.SpReading.store {p : Nat} {u : State} (h : u.SpReading p) (b : CtBuf) (off : Nat) (l : List Byte) :
    (u.store b off l).SpReading p := by
  cases b <;> exact ⟨⟨h.running.emerg, h.running.sofgen, h.running.alloc, h.running.delay⟩, h.onlySof, h.sofie⟩

/-- The starts of frame that the keep-alives after `n` packets take. -/
def State.keepAlives (n : Nat) (u : State) : Nat := if u.hal.lowSpeed then n else 0

section
variable {p : Nat} {u : State} {v : SpView} {rest : List Micro} {es : List Event}

/-- The keep-alive of a low-speed link: the wait for a start of frame between two IN packets. -/
theorem RunsTo.spKeepAlive (hu : u.SpRunning p) (hsof : OnlySof u) (hie : u.en.sofie = true) (ht : v.tmo < 0xFFFF)
    (hfg : v.fg = Machine.spKeepAlive ++ rest) (hes : v.events = .sof :: .irq :: es) :
    RunsTo 5 (u.spAt p v) ((u.framedBy 1).spAt p { v with
      sp := { v.sp with phase := .keepAlive }, tmo := v.tmo + 1, fg := rest, events := es }) := by
  let cleared : State := { u with flags := { u.flags with evtSof := false } }
  let waiting : SpView := { v with sp := { v.sp with phase := .keepAlive }, fg := .spPollSof :: rest }
  have hphase : RunsTo 1 (u.spAt p v) (u.spAt p { waiting with fg := .act .clearEvtSof :: waiting.fg }) :=
    .spMicro hfg rfl
  have hclear : RunsTo 1 (u.spAt p { waiting with fg := .act .clearEvtSof :: waiting.fg }) (cleared.spAt p waiting) :=
    .spAct rfl rfl
  have hcleared : cleared.SpRunning p := ⟨hu.emerg, hu.sofgen, hu.alloc, hu.delay⟩
  have hframe := RunsTo.spFrame (u := cleared) (v := waiting) (es := es) hcleared hsof hie ht rfl hes fun b es' => by
    simp only [micro, pollSof, State.spAt_flags, cleared, hu.emerg, Bool.false_eq_true, if_false, stay, State.spAt_push]
    rfl
  exact ((hphase.trans hclear).trans hframe).trans (.spMicro rfl rfl)

/-- After a full packet that leaves room: a keep-alive on a low-speed link, then the next IN packet. -/
theorem RunsTo.spInMore {n : Nat} (hu : u.SpReading p) (ht : v.tmo = 0) (hn : (u.pipe p).mps ≤ n) (hrem : 0 < v.sp.rem)
    (hfg : v.fg = .spInNext p n :: rest) (hes : v.events = (if u.hal.lowSpeed then frame else []) ++ es) :
    ∃ (tmo : Nat) (phase : SpPhase), RunsTo 6 (u.spAt p v) ((u.framesSeen (u.keepAlives 1)).spAt p { v with
      sp := { v.sp with phase := phase }, tmo := tmo, fg := .spInLoop p :: rest, events := es }) := by
  have hnext : micro (.spInNext p n) (u.spAt p { v with fg := rest }) = .ran (u.spAt p { v with
      fg := (if u.hal.lowSpeed then Machine.spKeepAlive else []) ++ .spInLoop p :: rest }) := by
    have hlow : (u.spAt p { v with fg := rest }).hal.lowSpeed = u.hal.lowSpeed := rfl
    simp only [micro, Machine.spInNext, State.spAt_pipe_self, State.spAt_sp, hrem, hlow, decide_true, Bool.true_and,
      Nat.not_lt.mpr hn, if_false]
    cases u.hal.lowSpeed <;> rfl
  have hstep := RunsTo.spMicro hfg hnext
  cases hlow : u.hal.lowSpeed with
  | false =>
    rw [hlow] at hstep hes
    have hevents : es = v.events := hes.symm
    refine ⟨v.tmo, v.sp.phase, ?_⟩
    rw [State.keepAlives, hlow, hevents]
    exact hstep.mono (by decide)
  | true =>
    rw [hlow] at hstep hes
    rw [State.keepAlives, hlow]
    exact ⟨_, .keepAlive, hstep.trans (.spKeepAlive (v := { v with fg := Machine.spKeepAlive ++ .spInLoop p :: rest })
      hu.running (hu.onlySof hlow) hu.sofie (by rw [ht]; decide) rfl hes)⟩

end

/-! ### The loop of GET_DATA (rule R310) -/

section
variable {p : Nat} {u : State} {v : SpView} {rest : List Micro}

/-- The view after an IN packet of which `n` bytes have been stored. -/
def SpView.packetTaken (v : SpView) (p n : Nat) (h : HalPipe) (fg : List Micro) (es : List Event) : SpView where
  pipe := h
  frozen := true
  out := v.out ++ [.unfreezePipe p, .sendIn p, .freezePipe p] ++ List.replicate n (.fifoRead p) ++ [.ackIn p]
  sp := { v.sp with phase := .receiving, off := v.sp.off + n, rem := v.sp.rem - n }
  st := Status.good
  tmo := 0
  nakcnt := 0
  fg := fg
  events := es

/-- One IN packet, arrived and stored. -/
theorem RunsTo.spInStored {es : List Event} {bytes : List Byte} (hu : u.SpRunning p) (hi : v.pipe.Idle)
    (htoken : v.pipe.token = .receive) (hrem : 0 < v.sp.rem) (hfit : bytes.length ≤ u.cfg.cap p)
    (hfg : v.fg = .spInLoop p :: rest) (hes : v.events = .inPacket p bytes :: es) :
    let got := bytes.take v.sp.rem
    ∃ h : HalPipe, h.Idle ∧ h.token = .receive ∧ RunsTo (got.length + 15) (u.spAt p v)
      ((u.store (.host v.sp.buf 0) v.sp.off got).spAt p
        (v.packetTaken p got.length h (.spInNext p bytes.length :: rest) es)) := by
  intro got
  let acked : HalPipe := { v.pipe with frozen := true, inReady := false, byteCount := bytes.length, fifo := [] }
  have harrived := RunsTo.spInPacket hu hi htoken hrem hfit hfg hes
  have htaken := harrived.trans (.spInTake hu.alloc hi.on rfl rfl)
  exact ⟨acked, { hi with inReady := rfl }, htoken, htaken.mono (by simp only [got]; omega)⟩

/-- What a GET_DATA that has come to the end of its loop has done since `v`: it moved on by the bytes stored, and goes on
with `Good`. -/
structure SpView.Received (v w : SpView) (got : List Byte) (rest : List Micro) : Prop where
  on : w.pipe.on = true
  st : w.st = Status.good
  off : w.sp.off = v.sp.off + got.length
  fg : w.fg = rest
  events : w.events = []

theorem RunsTo.spInPackets {full : List (List Byte)} {last : List Byte} (hu : u.SpReading p) (hi : v.pipe.Idle)
    (htoken : v.pipe.token = .receive)
    (hends : EndsRead (u.pipe p).mps v.sp.rem (u.cfg.cap p) false full last) (hfg : v.fg = .spInLoop p :: rest)
    (hes : v.events = arrivals p u.hal.lowSpeed full last) :
    let got := (full.flatten ++ last).take v.sp.rem
    ∃ w, RunsTo (21 * full.length + got.length + 18) (u.spAt p v)
      (((u.framesSeen (u.keepAlives full.length)).store (.host v.sp.buf 0) v.sp.off got).spAt p w) ∧
      v.Received w got rest := by
  induction full generalizing u v with
  | nil =>
    intro got
    obtain ⟨-, hroom, hend, hfits, -⟩ := hends
    obtain ⟨h, hidle, -, hstored⟩ := RunsTo.spInStored hu.running hi htoken hroom (hfits last List.mem_cons_self) hfg hes
    have hall : v.sp.rem ≤ last.length → v.sp.rem - (last.take v.sp.rem).length = 0 :=
      fun hle => Nat.sub_eq_zero_of_le (List.length_take_of_le hle).ge
    have hend' : last.length < (u.pipe p).mps ∨ v.sp.rem - (last.take v.sp.rem).length = 0 :=
      hend.imp_right fun hfull => hall (by simpa using hfull)
    have hended := hstored.trans (.spInLast (by rw [State.store_pipe, hu.running.alloc]) hidle.on
      (by rw [State.store_pipe]; exact hend') rfl)
    have hnone : u.framesSeen (u.keepAlives ([] : List (List Byte)).length) = u := by
      simp [State.keepAlives, State.framesSeen]
    rw [hnone]
    exact ⟨_, hended.mono (by simp [got]), hidle.on, rfl, rfl, rfl, rfl⟩
  | cons q full ih =>
    intro got
    have hsize : q.length = (u.pipe p).mps := hends.size q List.mem_cons_self
    have hroom : q.length + full.flatten.length < v.sp.rem := by simpa using hends.room
    have htake : q.take v.sp.rem = q := List.take_of_length_le (by omega)
    let es := arrivals p u.hal.lowSpeed full last
    have hes' : v.events = .inPacket p q :: ((if u.hal.lowSpeed then frame else []) ++ es) := by
      simp [hes, es, arrivals]
    obtain ⟨h, hidle, htoken', hstored⟩ := RunsTo.spInStored hu.running hi htoken (by omega)
      (hends.fits q List.mem_cons_self) hfg hes'
    rw [htake] at hstored
    let stored := u.store (.host v.sp.buf 0) v.sp.off q
    obtain ⟨tmo, phase, hmore⟩ := RunsTo.spInMore (u := stored) (es := es) (v := v.packetTaken p q.length h
      (.spInNext p q.length :: rest) ((if u.hal.lowSpeed then frame else []) ++ es)) (hu.store _ _ _) rfl
      (by simp [stored, hsize]) (Nat.sub_pos_of_lt (by omega)) rfl (by simp [stored, SpView.packetTaken])
    let next : SpView := { v.packetTaken p q.length h (.spInLoop p :: rest) es with
      sp := ⟨phase, v.sp.pipe, v.sp.rem - q.length, v.sp.off + q.length, v.sp.buf⟩, tmo := tmo }
    have hkeep : stored.keepAlives 1 = u.keepAlives 1 := rfl
    obtain ⟨w, hrun, hreceived⟩ := ih (u := stored.framesSeen (u.keepAlives 1)) (v := next)
      ((hu.store _ _ _).framesSeen _) hidle htoken' (by simpa [stored, next] using hends.tail) rfl
      (by simp [stored, next, SpView.packetTaken, es])
    have hgot : got = q ++ (full.flatten ++ last).take next.sp.rem := by
      simp only [got, next, List.flatten_cons, List.append_assoc, List.take_append (l₁ := q), htake]
    have hframes : (stored.framesSeen (u.keepAlives 1)).keepAlives full.length + u.keepAlives 1 =
        u.keepAlives (q :: full).length := by
      simp only [State.keepAlives, State.framesSeen_lowSpeed, stored, State.store_hal]
      cases u.hal.lowSpeed <;> rfl
    have hstore : ((stored.framesSeen (u.keepAlives 1)).framesSeen
        ((stored.framesSeen (u.keepAlives 1)).keepAlives full.length)).store (.host next.sp.buf 0) next.sp.off
        ((full.flatten ++ last).take next.sp.rem) =
        (u.framesSeen (u.keepAlives (q :: full).length)).store (.host v.sp.buf 0) v.sp.off got := by
      rw [State.framesSeen_framesSeen, hframes, hgot, State.store_framesSeen, State.store_append]
    rw [hstore] at hrun
    refine ⟨w, ((hstored.trans hmore).trans hrun).mono ?_, hreceived.on, hreceived.st, ?_, hreceived.fg,
      hreceived.events⟩
    · rw [hgot]
      simp only [List.length_append, List.length_cons]
      omega
    · rw [hreceived.off, hgot, List.length_append]
      exact Nat.add_assoc ..

end

/-! ### GET_DATA when the device answers every packet -/

/-- What a host buffer stores depends on no byte of `CACHE`. -/
theorem HostStored.of_store {s t : State} {l : List Byte} (hwf : Memory.wf s.hbuf = true) (hl : l.length ≤ 65536)
    (hhbuf : t.hbuf = (s.store (.host s.args.buf 0) 0 l).hbuf) : HostStored s t s.args.buf 0 l := by
  have hstored : BufferStored (s.setCache []) (t.setCache []) 1#8 l := .of_store rfl hwf hl rfl hhbuf
  rw [BufferStored, if_neg (by decide)] at hstored
  exact hstored.1

/-- A GET_DATA with no room returns `Good` and asks for nothing. -/
theorem RunsTo.spReceiveNone {s : State} {p : Nat} (h : PumpReady s p true) (hlen : s.args.len = 0#16)
    (hin : s.inputs = []) :
    ∃ pipe, RunsTo 21 (s.setFg (spProg p true s.args.buf s.args.len.toNat))
      ((s.sofPush.spClosed true 0 Status.good).spAt p
        (.returned pipe [.setToken p .receive, .freezePipe p] s.cnt.tmo s.cnt.nakcnt)) := by
  have hu := h.spRunning
  have henter := RunsTo.spEnter h (buf := s.args.buf) (len := s.args.len.toNat) (es := []) hin
  have hdone := henter.trans (.spInDone hu.alloc h.idle.on (by simp [SpView.entered, hlen]) rfl)
  exact ⟨_, hdone.trans (.spExitGood hu.alloc h.idle.on rfl rfl)⟩

/-- The whole run of a GET_DATA whose packets the device answers. -/
theorem RunsTo.spReceive {s : State} {p : Nat} {full : List (List Byte)} {last : List Byte} (h : PumpReady s p true)
    (hends : EndsRead (s.pipe p).mps s.args.len.toNat (s.cfg.cap p) false full last)
    (hsof : s.hal.lowSpeed = true → OnlySof s) (hin : s.inputs = atWait (arrivals p s.hal.lowSpeed full last)) :
    let got := (full.flatten ++ last).take s.args.len.toNat
    ∃ (pipe : HalPipe) (out : List HalAction) (tmo nakcnt : Nat),
      RunsTo (21 * full.length + got.length + 37) (s.setFg (spProg p true s.args.buf s.args.len.toNat))
        ((((s.sofPush.framesSeen (s.keepAlives full.length)).store (.host s.args.buf 0) 0 got).spClosed true got.length
          Status.good).spAt p (.returned pipe out tmo nakcnt)) := by
  intro got
  have hu : s.sofPush.SpReading p := ⟨h.spRunning, hsof, rfl⟩
  have henter := RunsTo.spEnter h (buf := s.args.buf) (len := s.args.len.toNat) hin
  obtain ⟨w, hpackets, hreceived⟩ := RunsTo.spInPackets (rest := [.spExit p true, .act .resStatus])
    (v := .entered s p true s.args.buf s.args.len.toNat _) hu { h.idle with } rfl hends rfl rfl
  have hclosed := ((hu.framesSeen (s.keepAlives full.length)).store (.host s.args.buf 0) 0 got).running.alloc
  have hexit := (henter.trans hpackets).trans (.spExitGood hclosed hreceived.on hreceived.st hreceived.fg)
  have hoff : w.sp.off = got.length := hreceived.off.trans (Nat.zero_add _)
  rw [hoff, hreceived.events] at hexit
  have hsteps : 7 + (21 * full.length + got.length + 18) + 12 = 21 * full.length + got.length + 37 := by omega
  rw [← hsteps]
  exact ⟨_, _, _, _, hexit⟩

/-- Settles O36: the run of a GET_DATA with no room, and the run, packet by packet, of one whose packets the device
answers. -/
theorem getDataCompletes : Obligations.GetDataCompletes := by
  intro s p hready
  refine ⟨fun hlen hin => ?_, ?_⟩
  · obtain ⟨pipe, hrun⟩ := RunsTo.spReceiveNone hready hlen hin
    have hexec := (exec_getData hready).trans (hrun.run_eq (n := burst) (by decide) rfl)
    refine ⟨_, hexec, rfl, State.spAt_pipe_of_frozen rfl, ?_⟩
    rw [State.spAt, hready.fg, hin]
    rfl
  · intro full last hwf hmps hends hsof hin got waits
    have hread := hends.endsRead
    obtain ⟨pipe, out, tmo, nakcnt, hrun⟩ := RunsTo.spReceive hready hread hsof hin
    have hsteps := hread.steps_le hmps
    have hlong := s.args.len.isLt
    have hgot : got.length ≤ 65536 := (List.length_take_le _ _).trans hlong.le
    have hexec := (exec_getData hready).trans (hrun.run_eq (n := burst) (by simp only [burst]; omega) rfl)
    rw [State.framesSeen_eq] at hexec
    refine ⟨_, hexec, rfl, .of_store hwf hgot rfl, fun _ => rfl, State.spAt_pipe_of_frozen rfl, ?_⟩
    rw [State.spAt, hready.fg]
    rfl

end Sys2Proof.Machine
end

section
/-! PROOFS. The family `44_async_pump.md`: what a stretch of the asynchronous pump does to its pipe and its job, the priming
of a packet (rule R344), and the end of a job (rule R352). -/

namespace Sys2Proof.Machine

/-! ### A stretch of the asynchronous pump on one pipe -/

/-- The asynchronous pump on pipe `p` has come from `s` to `t`: the pipe's job is `j`, its entry `r` and the enables `e`; it
has issued `out`; beside that only what the HAL holds may differ. -/
structure PumpMove (p : Nat) (s t : State) (j : Job) (r : Pipe) (e : EnableRegs) (out : List Output) : Prop where
  job : ∀ q, t.job q = if q = p then j else s.job q
  pipe : ∀ q, t.pipe q = if q = p then r else s.pipe q
  issued : Issued s t out
  frame : t = { s with en := e, jobs := t.jobs, pipes := t.pipes, hal := t.hal, trace := t.trace }

theorem PumpMove.refl (p : Nat) (s : State) : PumpMove p s s (s.job p) (s.pipe p) s.en [] where
  job q := by split <;> simp_all
  pipe q := by split <;> simp_all
  issued := rfl
  frame := rfl

section
variable {p : Nat} {s t : State} {j : Job} {r : Pipe} {e : EnableRegs} {out : List Output}

theorem PumpMove.job_self (h : PumpMove p s t j r e out) : t.job p = j := (h.job p).trans (if_pos rfl)

theorem PumpMove.pipe_self (h : PumpMove p s t j r e out) : t.pipe p = r := (h.pipe p).trans (if_pos rfl)

theorem PumpMove.en_eq (h : PumpMove p s t j r e out) : t.en = e := (congrArg State.en h.frame :)

theorem PumpMove.cfg_eq (h : PumpMove p s t j r e out) : t.cfg = s.cfg := (congrArg State.cfg h.frame :)

theorem PumpMove.plan_eq (h : PumpMove p s t j r e out) : t.plan = s.plan := (congrArg State.plan h.frame :)

theorem PumpMove.hostByte_eq (h : PumpMove p s t j r e out) (b off : Nat) : t.hostByte b off = s.hostByte b off :=
  (congrArg (State.hostByte · b off) h.frame :)

theorem PumpMove.hostBytes_eq (h : PumpMove p s t j r e out) (b off n : Nat) :
    t.hostBytes b off n = s.hostBytes b off n := List.map_congr_left fun _ _ => h.hostByte_eq b _

theorem PumpMove.hal (h : PumpMove p s t j r e out) (a : HalAction) :
    PumpMove p s (t.doHal a) j r e (out ++ [.hal a]) where
  job q := by rw [State.doHal_job, h.job]
  pipe q := by rw [State.doHal_pipe, h.pipe]
  issued := h.issued.trans (State.doHal_trace a t)
  frame := by rw [State.doHal_eq, h.frame]; rfl

theorem PumpMove.setJob (h : PumpMove p s t j r e out) (j' : Job) : PumpMove p s (t.setJob p j') j' r e out where
  job q := by rw [State.setJob_job, h.job]; split <;> rfl
  pipe := h.pipe
  issued := h.issued
  frame := by rw [h.frame]; rfl

theorem PumpMove.setPipe (h : PumpMove p s t j r e out) (r' : Pipe) : PumpMove p s (t.setPipe p r') j r' e out where
  job := h.job
  pipe q := by rw [State.setPipe_pipe, h.pipe]; split <;> rfl
  issued := h.issued
  frame := by rw [h.frame]; rfl

theorem PumpMove.setEn (h : PumpMove p s t j r e out) (e' : EnableRegs) : PumpMove p s (t.setEn e') j r e' out where
  job := h.job
  pipe := h.pipe
  issued := h.issued
  frame := by rw [h.frame]; rfl

theorem PumpMove.emit (h : PumpMove p s t j r e out) (o : Output) : PumpMove p s (t.emit o) j r e (out ++ [o]) where
  job := h.job
  pipe := h.pipe
  issued := h.issued.trans rfl
  frame := by rw [h.frame]; rfl

/-! ### Priming a packet (rule R344) -/

theorem PumpMove.inflight (h : PumpMove p s t j r e out) (n : Nat) :
    PumpMove p s (act (.jobInflight p n) t) { j with inflight := n } r e out := by
  simpa only [act, h.job_self] using h.setJob { j with inflight := n }

theorem PumpMove.setFrozen (h : PumpMove p s t j r e out) (b : Bool) :
    PumpMove p s (act (.setFrozen p b) t) j { r with frozen := b } e out := by
  simpa only [act, h.pipe_self] using h.setPipe { r with frozen := b }

/-- The bytes of the job's buffer, given to the FIFO one after another. -/
theorem PumpMove.fifoFromJob (h : PumpMove p s t j r e out) (ks : List Nat) :
    PumpMove p s (acts (ks.map (Act.fifoFromJob p)) t) j r e
      (out ++ hals ((ks.map fun k => s.hostByte j.buf (j.processed + k)).map (HalAction.fifoWrite p))) := by
  induction ks generalizing t out with
  | nil => simpa [hals, acts] using h
  | cons k ks ih =>
    have hbyte := h.hal (.fifoWrite p (s.hostByte j.buf (j.processed + k)))
    have hact : act (.fifoFromJob p k) t = t.doHal (.fifoWrite p (s.hostByte j.buf (j.processed + k))) := by
      rw [act, h.job_self, h.hostByte_eq]
    rw [List.map_cons, acts, hact]
    simpa [hals] using ih hbyte

/-- The HAL actions that hand an OUT packet of these bytes over. -/
def primeOutActions (p : Nat) (bytes : List Byte) : List HalAction :=
  bytes.map (HalAction.fifoWrite p) ++ [.setToken p .send, .unfreezePipe p, .sendOut p]

/-- The HAL actions that ask for an IN packet. -/
def primeInActions (p : Nat) : List HalAction := [.setToken p .receive, .unfreezePipe p, .sendIn p]

theorem PumpMove.primeOut (h : PumpMove p s t j r e out) {n : Nat} (hn : n = min (j.total - j.processed) r.mps) :
    PumpMove p s (acts (primeOutActs p t) t) { j with inflight := n } { r with frozen := false } e
      (out ++ hals (primeOutActions p (s.hostBytes j.buf j.processed n))) := by
  have hsent := ((((h.fifoFromJob (List.range n)).inflight n).hal (.setToken p .send)).hal
    (.unfreezePipe p)).setFrozen false |>.hal (.sendOut p)
  have hacts : acts (primeOutActs p t) t = (act (.setFrozen p false)
      (((act (.jobInflight p n) (acts ((List.range n).map (Act.fifoFromJob p)) t)).doHal
        (.setToken p .send)).doHal (.unfreezePipe p))).doHal (.sendOut p) := by
    rw [primeOutActs, h.job_self, h.pipe_self, ← hn, acts_append]
    rfl
  rw [hacts]
  simpa [hals, primeOutActions, State.hostBytes] using hsent

theorem PumpMove.primeIn (h : PumpMove p s t j r e out) :
    PumpMove p s (acts (primeInActs p) t) { j with inflight := 0 } { r with frozen := false } e
      (out ++ hals (primeInActions p)) := by
  have hasked : PumpMove p s (acts (primeInActs p) t) _ _ e _ :=
    (((h.inflight 0).hal (.setToken p .receive)).hal (.unfreezePipe p)).setFrozen false |>.hal (.sendIn p)
  simpa [hals, primeInActions] using hasked

/-! ### The end of a job (rule R352) -/

/-- The job of pipe `p` ends: the `critical` body of `Complete`, then its callback, which the application does not answer
(rule R352). -/
def State.endJob (p : Nat) (st : Status) (s : State) : State :=
  (s.completeBody p st).emit (.callback (s.job p).cb st (s.job p).processed)

/-- A job that has ended (rule R352). -/
def Job.ended (st : Status) (j : Job) : Job := { j with enabled := false, status := st, inflight := 0 }

/-- What the end of a job issues: the pipe is silenced, frozen and, but after `Good`, reset; then the callback (rule
R352). -/
def Job.endOutputs (p : Nat) (st : Status) (j : Job) : List Output :=
  [.hal (.disablePipeInt p), .hal (if st ≠ Status.good then .resetPipe p else .freezePipe p),
    .callback j.cb st j.processed]

/-- `SOFIE` is restored when no job is armed any more (rule R352). -/
def EnableRegs.released (armed : Bool) (e : EnableRegs) : EnableRegs :=
  { e with sofie := if armed then e.sofie else e.sofieSaveAsync }

theorem EnableRegs.released_eq (armed : Bool) (e : EnableRegs) :
    e.released armed = { e with sofie := if armed = false then e.sofieSaveAsync else e.sofie } := by
  cases armed <;> rfl

theorem PumpMove.endJob (h : PumpMove p s t j r e out) (st : Status) :
    PumpMove p s (t.endJob p st) (j.ended st) { r with frozen := true } (e.released (t.endJob p st).anyArmed)
      (out ++ j.endOutputs p st) := by
  let silenced := (t.doHal (.disablePipeInt p)).doHal (if st ≠ Status.good then .resetPipe p else .freezePipe p)
  let frozen := silenced.setPipe p { silenced.pipe p with frozen := true }
  have hsilenced : PumpMove p s silenced j r e _ := (h.hal _).hal _
  have hfrozen : PumpMove p s frozen j { r with frozen := true } e _ := hsilenced.setFrozen true
  have hbody : t.completeBody p st = (frozen.setJob p ((frozen.job p).ended st)).setEn
      (frozen.en.released (frozen.setJob p ((frozen.job p).ended st)).anyArmed) := rfl
  rw [hfrozen.job_self, hfrozen.en_eq] at hbody
  have hended := ((hfrozen.setJob (j.ended st)).setEn (e.released (frozen.setJob p (j.ended st)).anyArmed)).emit
    (.callback j.cb st j.processed)
  have hstate : t.endJob p st = ((frozen.setJob p (j.ended st)).setEn
      (e.released (frozen.setJob p (j.ended st)).anyArmed)).emit (.callback j.cb st j.processed) := by
    rw [State.endJob, h.job_self, hbody]
  rw [hstate]
  simpa [Job.endOutputs] using hended

theorem notify_of_no_plan {s : State} (o : Output) (h : s.plan = []) : notify o s = .next (s.emit o) := by
  rw [notify, h]
  rfl

/-- `Complete` of an armed job whose callback the application does not answer. -/
theorem PumpMove.complete (h : PumpMove p s t j r e out) (st : Status) (hplan : s.plan = []) (hj : j.enabled = true) :
    Machine.complete p st t = .next (t.endJob p st) := by
  have hbody : (t.completeBody p st).plan = [] := by rw [State.completeBody_plan, h.plan_eq, hplan]
  rw [Machine.complete, completeWith, h.job_self, if_pos hj, notify_of_no_plan _ hbody, State.endJob, h.job_self]

end

end Sys2Proof.Machine
end

section
/-! PROOFS. The family `44_async_pump.md`: the arming commands (rule R340 to rule R343, rule R357 (1)). -/

namespace Sys2Proof.Machine

/-! ### The operand check (rule R342) -/

theorem pipeOk_iff {c : Config} {p : Nat} : pipeOk c p = true ↔ 1 ≤ p ∧ p < c.nPipes := by
  simp [pipeOk]

theorem armable_iff {s : State} {p : Nat} {dirIn : Bool} :
    (pipeOk s.cfg p && (s.pipe p).alloc && (s.pipe p).dirIn == dirIn) = true ↔
      1 ≤ p ∧ p < s.cfg.nPipes ∧ (s.pipe p).alloc = true ∧ (s.pipe p).dirIn = dirIn := by
  simp only [Bool.and_eq_true, beq_iff_eq, pipeOk_iff, and_assoc]

theorem armCheck_badPipe {s : State} {p : Nat} {dirIn : Bool}
    (h : ¬ (1 ≤ p ∧ p < s.cfg.nPipes ∧ (s.pipe p).alloc = true ∧ (s.pipe p).dirIn = dirIn)) :
    armCheck p dirIn s = some .badPipe := by
  rw [armCheck, Bool.eq_false_iff.mpr (mt armable_iff.mp h)]
  rfl

theorem armCheck_of_pipe {s : State} {p : Nat} {dirIn : Bool}
    (h : 1 ≤ p ∧ p < s.cfg.nPipes ∧ (s.pipe p).alloc = true ∧ (s.pipe p).dirIn = dirIn) :
    armCheck p dirIn s = if s.sp.phase ≠ .idle ∧ s.sp.pipe = p then some .pipeInSyncPump else none := by
  rw [armCheck, armable_iff.mpr h]
  rfl

/-- The arming command of a direction. -/
def armInstr (p : BitVec 8) (dirIn : Bool) : Instr := if dirIn then .getDataAsync p else .sendDataAsync p

theorem exec_armInstr_of_refused {p : BitVec 8} {dirIn : Bool} {s : State} {x : Refusal}
    (h : armCheck p.toNat dirIn s = some x) : exec (armInstr p dirIn) s = .refused x := by
  cases dirIn
  · show execSendDataAsync p s = _
    rw [execSendDataAsync, h]
  · show execGetDataAsync p s = _
    rw [execGetDataAsync, h]

theorem exec_armInstr_of_passed {p : BitVec 8} {dirIn : Bool} {s : State} (h : armCheck p.toNat dirIn s = none)
    (hfg : s.fg = []) : exec (armInstr p dirIn) s =
      run burst (s.setFg [.armCrit p.toNat dirIn s.args.buf s.args.len.toNat s.args.cb]) := by
  cases dirIn
  · show execSendDataAsync p s = _
    rw [execSendDataAsync, h]
    exact if_pos hfg
  · show execGetDataAsync p s = _
    rw [execGetDataAsync, h]
    exact if_pos hfg

/-- Settles O44: the check stands before everything else. -/
theorem armOperandRefused : Obligations.ArmOperandRefused := by
  intro s p dirIn i ok
  refine ⟨fun hbad => exec_armInstr_of_refused (armCheck_badPipe hbad), fun hok hphase hpipe => ?_⟩
  exact exec_armInstr_of_refused ((armCheck_of_pipe hok).trans (if_pos ⟨hphase, hpipe⟩))

/-! ### `Arm` in the foreground (rule R343) -/

/-- A micro-step that runs, from one list of micro-steps to another. -/
theorem RunsTo.ran {s u : State} {m : Micro} {rest f : List Micro} (hc : s.calm = true)
    (hm : micro m (s.setFg rest) = .ran (u.setFg f)) (hu : u.calm = true) :
    RunsTo 1 (s.setFg (m :: rest)) (u.setFg f) := .of_micro hc rfl hm hu

theorem thenDo_setFg (ms rest : List Micro) (s : State) : thenDo ms (s.setFg rest) = .ran (s.setFg (ms ++ rest)) := rfl

theorem RunsTo.armBusy {s : State} {p : Nat} (dirIn : Bool) (buf len cb : Nat) (hc : s.calm = true)
    (h : (s.job p).enabled = true) :
    RunsTo 1 (s.setFg [.armCrit p dirIn buf len cb]) ((s.setResBool false).setFg []) :=
  .ran hc (if_pos h) hc

/-- The bound is the number of bytes of the first packet and a constant for the rest. -/
theorem primeActs_length_le (p : Nat) (dirIn : Bool) (s : State) :
    (primeActs p dirIn s).length ≤ (s.job p).total + 5 := by
  cases dirIn
  · simp [primeActs, primeOutActs]
  · exact Nat.le_add_left 5 _

theorem RunsTo.armBody {s : State} {p : Nat} (dirIn : Bool) (buf len cb : Nat) (hc : s.calm = true)
    (h : (s.job p).enabled = false) :
    RunsTo 1 (s.setFg [.armCrit p dirIn buf len cb]) ((s.armBody p dirIn buf len cb).setFg
      (actSteps [.hal (.resetPipe p)] ++ [.prime p dirIn, .armCauses p, .act (.resBool true)])) := by
  have hbody : micro (.armCrit p dirIn buf len cb) (s.setFg []) =
      Machine.thenDo [halStep (.resetPipe p), .prime p dirIn, .armCauses p, .act (.resBool true)]
        ((s.armBody p dirIn buf len cb).setFg []) := if_neg (by simp [h])
  exact .ran hc (hbody.trans (thenDo_setFg ..)) (State.calm_of_inputs rfl hc)

theorem RunsTo.prime {s : State} {rest : List Micro} (p : Nat) (dirIn : Bool) (hc : s.calm = true) :
    RunsTo (1 + (primeActs p dirIn s).length) (s.setFg (.prime p dirIn :: rest))
      ((acts (primeActs p dirIn s) s).setFg rest) :=
  (RunsTo.thenDo _ hc (by cases dirIn <;> rfl)).trans (.straight _ hc)

theorem RunsTo.armCauses {s : State} {rest : List Micro} (p : Nat) (hc : s.calm = true) :
    RunsTo 2 (s.setFg (.armCauses p :: rest)) ((s.doHal (.enablePipeInt p (Machine.armCauses p s))).setFg rest) :=
  (RunsTo.thenDo (actSteps [.hal (.enablePipeInt p (Machine.armCauses p s))]) hc rfl).trans (.straight _ hc)

@[simp] theorem State.doHal_calm (a : HalAction) (s : State) : (s.doHal a).calm = s.calm := by
  simp only [State.calm, State.doHal_inputs]

/-- `Arm` in the foreground after its `critical` body and `hal.reset_pipe`. -/
theorem RunsTo.armRest {s : State} (p : Nat) (dirIn : Bool) (hc : s.calm = true) :
    RunsTo ((primeActs p dirIn s).length + 4) (s.setFg [.prime p dirIn, .armCauses p, .act (.resBool true)])
      ((((acts (primeActs p dirIn s) s).doHal (.enablePipeInt p
        (Machine.armCauses p (acts (primeActs p dirIn s) s)))).setResBool true).setFg []) := by
  have hprime := RunsTo.prime p dirIn hc (rest := [.armCauses p, .act (.resBool true)])
  rw [← acts_calm (primeActs p dirIn s)] at hc
  generalize acts (primeActs p dirIn s) s = primed at hprime hc
  have hcauses := RunsTo.armCauses p hc (rest := actSteps [.resBool true] ++ [])
  rw [← State.doHal_calm (.enablePipeInt p (Machine.armCauses p primed))] at hc
  have hresult := RunsTo.straight [.resBool true] hc (rest := [])
  refine ((hprime.trans hcauses).trans hresult).mono ?_
  simp only [List.length_cons, List.length_nil]
  omega

/-- `Arm` of a free pipe in the foreground: micro-step by micro-step it comes where `Arm` run to its end comes. -/
theorem RunsTo.armFree {s : State} {p : Nat} (dirIn : Bool) (hc : s.calm = true) (h : (s.job p).enabled = false) :
    RunsTo (s.args.len.toNat + 11) (s.setFg [.armCrit p dirIn s.args.buf s.args.len.toNat s.args.cb])
      ((s.arm p dirIn).setFg []) := by
  let armed := s.armBody p dirIn s.args.buf s.args.len.toNat s.args.cb
  have hbody := RunsTo.armBody dirIn s.args.buf s.args.len.toNat s.args.cb hc h
  have hcalm : armed.calm = true := State.calm_of_inputs rfl hc
  have hreset := RunsTo.straight [.hal (.resetPipe p)] hcalm
    (rest := [.prime p dirIn, .armCauses p, .act (.resBool true)])
  have hrest := RunsTo.armRest p dirIn (s := armed.doHal (.resetPipe p)) (by rw [State.doHal_calm, hcalm])
  have hlen := primeActs_length_le p dirIn (armed.doHal (.resetPipe p))
  have htotal : ((armed.doHal (.resetPipe p)).job p).total = s.args.len.toNat := by simp [armed, State.armBody_job]
  rw [State.arm, if_neg (by simp [h])]
  refine ((hbody.trans hreset).trans hrest).mono ?_
  simp only [List.length_cons, List.length_nil]
  omega

@[simp] theorem State.arm_fg (p : Nat) (dirIn : Bool) (s : State) : (s.arm p dirIn).fg = s.fg := by
  unfold State.arm
  split
  · rfl
  · simp [State.armBody]

theorem State.setFg_self {s : State} {f : List Micro} (h : s.fg = f) : s.setFg f = s := by
  rw [← h]
  rfl

/-- An arming command that passes its check runs `Arm` to its end. -/
theorem exec_armInstr_of_ready {s : State} {p : BitVec 8} {dirIn : Bool} (h : ArmReady s p.toNat dirIn) :
    exec (armInstr p dirIn) s = .next (s.arm p.toNat dirIn) := by
  obtain ⟨hfg, hin, hpos, hlt, halloc, hdir, hpump⟩ := h
  have hnone : ¬ (s.sp.phase ≠ .idle ∧ s.sp.pipe = p.toNat) := by
    rintro ⟨hphase, hpipe⟩
    exact hpump.elim hphase (· hpipe)
  have hcheck : armCheck p.toNat dirIn s = none := (armCheck_of_pipe ⟨hpos, hlt, halloc, hdir⟩).trans (if_neg hnone)
  have hself : (s.arm p.toNat dirIn).setFg [] = s.arm p.toNat dirIn :=
    State.setFg_self ((State.arm_fg p.toNat dirIn s).trans hfg)
  have hlen := s.args.len.isLt
  rw [exec_armInstr_of_passed hcheck hfg, ← hself]
  by_cases hbusy : (s.job p.toNat).enabled = true
  · have harm : s.arm p.toNat dirIn = s.setResBool false := if_pos hbusy
    rw [harm]
    exact (RunsTo.armBusy dirIn _ _ _ (State.calm_nil hin) hbusy).run_eq (by decide) rfl
  · exact (RunsTo.armFree dirIn (State.calm_nil hin) (by simpa using hbusy)).run_eq (by simp only [burst]; omega) rfl

/-- Settles O41: an armed pipe gives false at the first micro-step. -/
theorem armBusyPipe : Obligations.ArmBusyPipe := by
  intro s p hbusy
  have harm (dirIn : Bool) : s.arm p.toNat dirIn = { s with res := { s.res with bool := false } } := if_pos hbusy
  exact ⟨fun h => (exec_armInstr_of_ready (dirIn := false) h).trans (congrArg _ (harm false)),
    fun h => (exec_armInstr_of_ready (dirIn := true) h).trans (congrArg _ (harm true))⟩

/-! ### What arming a free pipe does (rule R343) -/

/-- The enables after `Arm` (rule R343). -/
def State.armedEn (s : State) : EnableRegs :=
  { s.en with sofieSaveAsync := if s.anyArmed then s.en.sofieSaveAsync else s.en.sofie, sofie := true }

/-- The job that `Arm` enters, with so many bytes of its first packet in flight (rule R343, rule R344). -/
def State.armedJob (dirIn : Bool) (n : Nat) (s : State) : Job where
  enabled := true
  dirIn := dirIn
  total := s.args.len.toNat
  processed := 0
  inflight := n
  buf := s.args.buf
  cb := s.args.cb
  nak := armBudget s.cfg dirIn
  timeoutCnt := 0
  status := Status.good

/-- The causes that `Arm` enables (rule R343). -/
def State.armedCauses (p : Nat) (s : State) : Causes :=
  ⟨true, true, true, s.cfg.nakTimeoutEn && decide ((s.pipe p).typ ≠ .interrupt)⟩

section
variable {p : Nat} {s u : State} {j : Job} {r : Pipe} {e : EnableRegs} {out : List Output}

/-- The `critical` body of `Arm` and `hal.reset_pipe`. -/
def State.armReset (p : Nat) (dirIn : Bool) (s : State) : State :=
  (s.armBody p dirIn s.args.buf s.args.len.toNat s.args.cb).doHal (.resetPipe p)

theorem PumpMove.armReset (p : Nat) (dirIn : Bool) (s : State) :
    PumpMove p s (s.armReset p dirIn) (s.armedJob dirIn 0) (s.pipe p) s.armedEn [.hal (.resetPipe p)] :=
  (((PumpMove.refl p s).setJob (s.armedJob dirIn 0)).setEn s.armedEn).hal (.resetPipe p)

theorem PumpMove.armCauses_eq (h : PumpMove p s u j { s.pipe p with frozen := false } e out) :
    Machine.armCauses p u = s.armedCauses p := by
  rw [Machine.armCauses, h.cfg_eq, h.pipe_self, State.armedCauses]

/-- The frame of an arming command that gives true. -/
theorem PumpMove.frame_resBool (h : PumpMove p s u j r e out) (b : Bool) : u.setResBool b =
    { s with
      en := e, res := { s.res with bool := b }
      jobs := u.jobs, pipes := u.pipes, hal := u.hal, trace := u.trace } := by
  rw [h.frame]
  rfl

/-- `Arm` of a free OUT pipe, up to its result. -/
theorem arm_send (hfree : (s.job p).enabled = false) :
    let n := min s.args.len.toNat (s.pipe p).mps
    ∃ u, s.arm p false = u.setResBool true ∧
      u = (acts (primeOutActs p (s.armReset p false)) (s.armReset p false)).doHal (.enablePipeInt p (s.armedCauses p)) ∧
      PumpMove p s u (s.armedJob false n) { s.pipe p with frozen := false } s.armedEn
        ([.hal (.resetPipe p)] ++ hals (primeOutActions p (s.hostBytes s.args.buf 0 n)) ++
          [.hal (.enablePipeInt p (s.armedCauses p))]) := by
  intro n
  have hprimed := (PumpMove.armReset p false s).primeOut (n := n) rfl
  refine ⟨_, ?_, rfl, hprimed.hal _⟩
  rw [← hprimed.armCauses_eq, State.arm, if_neg (by simp [hfree])]
  rfl

/-- `Arm` of a free IN pipe, up to its result. -/
theorem arm_receive (hfree : (s.job p).enabled = false) :
    ∃ u, s.arm p true = u.setResBool true ∧
      PumpMove p s u (s.armedJob true 0) { s.pipe p with frozen := false } s.armedEn
        ([.hal (.resetPipe p)] ++ hals (primeInActions p) ++ [.hal (.enablePipeInt p (s.armedCauses p))]) := by
  have hprimed := (PumpMove.armReset p true s).primeIn
  refine ⟨_, ?_, hprimed.hal (.enablePipeInt p (s.armedCauses p))⟩
  rw [← hprimed.armCauses_eq, State.arm, if_neg (by simp [hfree])]
  rfl

end

/-- Settles O43: `Arm` run to its end, on an IN pipe. -/
theorem armReceive : Obligations.ArmReceive := by
  intro s p hready hfree q
  obtain ⟨u, harm, hmove⟩ := arm_receive hfree
  refine ⟨_, (exec_armInstr_of_ready (dirIn := true) hready).trans (congrArg _ harm), hmove.job, hmove.pipe,
    hmove.issued, hmove.frame_resBool true⟩

/-! ### The FIFO of an enabled pipe (rule R340, worked example) -/

/-- Actions on pipe `p` take effect in `s`, where the HAL holds `h` of it. -/
structure State.Holds (p : Nat) (h : HalPipe) (s : State) : Prop where
  alloc : (s.pipe p).alloc = true
  on : h.on = true
  halPipe : s.halPipe p = h

section
variable {p : Nat} {h : HalPipe} {s : State}

theorem State.Holds.hal {a : HalAction} {f : HalPipe → HalPipe} (hs : s.Holds p h)
    (ha : halEffect a (s.emit (.hal a)) = (s.emit (.hal a)).onLive p f) (hon : (f h).on = true) :
    (s.doHal a).Holds p (f h) where
  alloc := by rw [State.doHal_pipe, hs.alloc]
  on := hon
  halPipe := by
    have hlive : (s.emit (.hal a)).live p = true := by simp [State.live, hs.alloc, hs.on, hs.halPipe]
    rw [State.doHal, ha, State.onLive_halPipe, if_pos ⟨rfl, hlive⟩, State.emit_halPipe, hs.halPipe]

theorem State.Holds.inflight (hs : s.Holds p h) (n : Nat) : (act (.jobInflight p n) s).Holds p h :=
  ⟨hs.alloc, hs.on, hs.halPipe⟩

theorem State.Holds.setFrozen (hs : s.Holds p h) (b : Bool) : (act (.setFrozen p b) s).Holds p h :=
  ⟨by rw [act, State.setPipe_pipe, if_pos rfl]; exact hs.alloc, hs.on, hs.halPipe⟩

/-- Bytes that fit come into the FIFO in order. -/
theorem State.Holds.fifoFromJob {ks : List Nat} (hs : s.Holds p h) (hcap : h.fifo.length + ks.length ≤ s.cfg.cap p) :
    (acts (ks.map (Act.fifoFromJob p)) s).Holds p { h with
      fifo := h.fifo ++ ks.map fun k => s.hostByte (s.job p).buf ((s.job p).processed + k) } := by
  induction ks generalizing s h with
  | nil => simpa [acts] using hs
  | cons k ks ih =>
    let b := s.hostByte (s.job p).buf ((s.job p).processed + k)
    rw [List.length_cons] at hcap
    have hfit : (s.emit (.hal (.fifoWrite p b))).fitFifo p (h.fifo ++ [b]) = h.fifo ++ [b] :=
      State.fitFifo_of_le (by rw [List.length_append, List.length_singleton, State.emit_cfg]; omega)
    have hbyte := hs.hal (a := .fifoWrite p b) rfl hs.on
    rw [hfit] at hbyte
    have hrest := ih hbyte (by
      rw [State.doHal_cfg, List.length_append, List.length_singleton]
      omega)
    simpa [acts, act, b] using hrest

/-- An OUT packet that fits is in the FIFO and in flight once it has been primed. -/
theorem State.Holds.primeOut {n : Nat} (hs : s.Holds p h) (hempty : h.fifo = [])
    (hn : n = min ((s.job p).total - (s.job p).processed) (s.pipe p).mps) (hcap : n ≤ s.cfg.cap p) :
    (acts (primeOutActs p s) s).Holds p { h with
      fifo := s.hostBytes (s.job p).buf (s.job p).processed n, token := .send, frozen := false, sent := true } := by
  have hwritten := hs.fifoFromJob (ks := List.range n) (by simpa [hempty] using hcap)
  have hfrozen := (((hwritten.inflight n).hal (a := .setToken p .send) rfl hs.on).hal (a := .unfreezePipe p) rfl
    hs.on).setFrozen false
  have hsent := hfrozen.hal (a := .sendOut p) rfl hs.on
  rw [hempty, List.nil_append] at hsent
  rw [primeOutActs, ← hn, acts_append]
  exact hsent

end

/-- Settles O42: `Arm` run to its end, on an OUT pipe. -/
theorem armSend : Obligations.ArmSend := by
  intro s p hready hfree q n
  obtain ⟨u, harm, hu, hmove⟩ := arm_send hfree
  have hissued : Issued s u (hals ([HalAction.resetPipe q] ++ (s.hostBytes s.args.buf 0 n).map (HalAction.fifoWrite q) ++
      [HalAction.setToken q .send, .unfreezePipe q, .sendOut q, .enablePipeInt q (s.armedCauses q)])) := by
    simpa [hals, primeOutActions] using hmove.issued
  refine ⟨_, (exec_armInstr_of_ready (dirIn := false) hready).trans (congrArg _ harm), hmove.job, hmove.pipe,
    hissued, fun hon hcap => ?_, hmove.frame_resBool true⟩
  obtain ⟨-, -, -, -, halloc, -⟩ := hready
  have hmoved := PumpMove.armReset q false s
  have harmed : (s.armBody q false s.args.buf s.args.len.toNat s.args.cb).Holds q (s.halPipe q) := ⟨halloc, hon, rfl⟩
  have hreset : (s.armReset q false).Holds q (s.halPipe q).reset := harmed.hal (a := .resetPipe q) rfl hon
  have hprimed := hreset.primeOut (n := n) rfl (by rw [hmoved.job_self, hmoved.pipe_self]; rfl)
    (by rwa [hmoved.cfg_eq])
  have henabled := hprimed.hal (a := .enablePipeInt q (s.armedCauses q)) rfl hon
  have hbytes : (s.armReset q false).hostBytes ((s.armReset q false).job q).buf ((s.armReset q false).job q).processed n =
      s.hostBytes s.args.buf 0 n := by
    rw [hmoved.job_self, hmoved.hostBytes_eq]
    rfl
  rw [← hu, hbytes] at henabled
  exact ⟨congrArg HalPipe.fifo henabled.halPipe, congrArg HalPipe.sent henabled.halPipe⟩

end Sys2Proof.Machine
end

section
/-! PROOFS. The family `44_async_pump.md`: PIPE_ISR with no job, on an OUT job's ready event, on an error, a STALL and a NAK
(rule R345, rule R350, rule R352). -/

namespace Sys2Proof.Machine

/-! ### The order of the causes (rule R345) -/

section
variable {s : State} {p : Nat}

theorem exec_pipeIsr {p : BitVec 8} (hpos : 1 ≤ p.toNat) (hlt : p.toNat < s.cfg.nPipes) :
    exec (.pipeIsr p) s = pipeIsr p.toNat s := if_pos (pipeOk_iff.mpr ⟨hpos, hlt⟩)

theorem pipeIsr_of_unarmed (h : (s.job p).enabled = false) : pipeIsr p s = .next (s.doHal (.disablePipeInt p)) :=
  if_pos (by simp [h])

variable (harmed : (s.job p).enabled = true)
include harmed

theorem pipeIsr_of_outReady (hdir : (s.job p).dirIn = false) (hready : (s.halPipe p).outReady = true) :
    pipeIsr p s = outReadyEvent p s := by
  simp [pipeIsr, harmed, hdir, hready]

theorem pipeIsr_of_inReady (hdir : (s.job p).dirIn = true) (hready : (s.halPipe p).inReady = true) :
    pipeIsr p s = inReadyEvent p s := by
  simp [pipeIsr, harmed, hdir, hready]

/-- With no ready event the error comes first, then the STALL, then the NAK. -/
theorem pipeIsr_of_not_ready (hready : (s.halPipe p).ready (s.job p).dirIn = false) :
    pipeIsr p s =
      if (s.halPipe p).error ≠ 0#5 then complete p (errorCode (s.halPipe p).error) (s.doHal (.ackErrors p))
      else if (s.halPipe p).stall then complete p Status.stall (s.doHal (.ackStall p))
      else if s.cfg.nakTimeoutEn && decide ((s.pipe p).typ ≠ .interrupt) && (s.halPipe p).nak then nakEvent p s
      else .next s := by
  have hout : (!(s.job p).dirIn && (s.halPipe p).outReady) = false ∧ ((s.job p).dirIn && (s.halPipe p).inReady) = false := by
    cases hdir : (s.job p).dirIn <;> simpa [HalPipe.ready, hdir] using hready
  simp only [pipeIsr, harmed, hout, Bool.not_true, Bool.false_eq_true, if_false]

section
variable (hready : (s.halPipe p).ready (s.job p).dirIn = false)
include hready

theorem pipeIsr_of_error (herror : (s.halPipe p).error ≠ 0#5) :
    pipeIsr p s = complete p (0#3 ++ (s.halPipe p).error) (s.doHal (.ackErrors p)) := by
  rw [pipeIsr_of_not_ready harmed hready, if_pos herror, errorCode_eq_append]

variable (herror : (s.halPipe p).error = 0#5)
include herror

theorem pipeIsr_of_stall (hstall : (s.halPipe p).stall = true) :
    pipeIsr p s = complete p Status.stall (s.doHal (.ackStall p)) := by
  rw [pipeIsr_of_not_ready harmed hready, if_neg (not_not.mpr herror), if_pos hstall]

theorem pipeIsr_of_nak (hstall : (s.halPipe p).stall = false) (hnak : (s.halPipe p).nak = true)
    (hen : s.cfg.nakTimeoutEn = true) (htype : (s.pipe p).typ ≠ .interrupt) : pipeIsr p s = nakEvent p s := by
  rw [pipeIsr_of_not_ready harmed hready, if_neg (not_not.mpr herror), if_neg (by simp [hstall]),
    if_pos (by simp [hen, htype, hnak])]

end

end

/-- Settles O45: an entry with no job is one HAL action; the operand check stands before it. -/
theorem pipeIsrUnarmed : Obligations.PipeIsrUnarmed := by
  intro s p
  refine ⟨fun hpos hlt hfree => ?_, fun hbad => if_neg (mt pipeOk_iff.mp hbad)⟩
  exact ⟨_, (exec_pipeIsr hpos hlt).trans (pipeIsr_of_unarmed hfree), State.doHal_trace ..,
    (State.doHal_eq ..).trans (by rw [State.doHal_trace]; rfl)⟩

/-! ### A ready event on an OUT job (rule R350) -/

/-- The state with the packet in flight counted (rule R350). -/
def State.packetSent (p : Nat) (s : State) : State :=
  (s.doHal (.ackOut p)).setJob p
    { s.job p with processed := (s.job p).processed + (s.job p).inflight, inflight := 0 }

theorem outReadyEvent_eq (p : Nat) (s : State) :
    outReadyEvent p s =
      if (s.job p).processed + (s.job p).inflight = (s.job p).total then complete p Status.good (s.packetSent p)
      else .next (acts (primeOutActs p (s.packetSent p)) (s.packetSent p)) := by
  simp [outReadyEvent, State.packetSent, State.setJob_job]

theorem PumpMove.packetSent (p : Nat) (s : State) :
    PumpMove p s (s.packetSent p)
      { s.job p with processed := (s.job p).processed + (s.job p).inflight, inflight := 0 } (s.pipe p) s.en
      [.hal (.ackOut p)] :=
  ((PumpMove.refl p s).hal _).setJob _

/-- Settles O46: the packet is counted, then the job ends or the next packet is primed. -/
theorem pipeIsrOutReady : Obligations.PipeIsrOutReady := by
  intro s p hplan hpos hlt harmed hdir hready q j done n
  have hexec := ((exec_pipeIsr hpos hlt).trans (pipeIsr_of_outReady harmed hdir hready)).trans (outReadyEvent_eq q s)
  have hsent := PumpMove.packetSent q s
  by_cases hlast : done = j.total
  · have hend := hsent.endJob Status.good
    rw [if_pos hlast, hsent.complete _ hplan harmed] at hexec
    refine ⟨_, hexec, ?_⟩
    simp only [if_pos hlast, decide_eq_true hlast, and_iff_right hlast, ← EnableRegs.released_eq]
    exact ⟨hend.job, hend.pipe, hend.issued, hend.frame⟩
  · have hprimed := hsent.primeOut (n := n) rfl
    rw [if_neg hlast] at hexec
    refine ⟨_, hexec, ?_⟩
    simp only [if_neg hlast, decide_eq_false hlast, if_neg fun h => hlast (And.left h)]
    exact ⟨hprimed.job, hprimed.pipe, by simpa [hals, primeOutActions] using hprimed.issued, hprimed.frame⟩

/-! ### An error, a STALL and a NAK (rule R345) -/

theorem errorCode_ne_good {kinds : BitVec 5} (h : kinds ≠ 0#5) : errorCode kinds ≠ Status.good := by
  refine fun hgood => h (BitVec.eq_of_toNat_eq ?_)
  have hnat : kinds.toNat % 256 = 0 := by simpa [errorCode, Status.good] using congrArg BitVec.toNat hgood
  have hlt := kinds.isLt
  simp only [BitVec.toNat_ofNat]
  omega

/-- A flag is acknowledged, and the job ends with a status that is not `Good`. -/
theorem complete_acked {s : State} {p : Nat} {st : Status} (a : HalAction) (hplan : s.plan = [])
    (harmed : (s.job p).enabled = true) (hst : st ≠ Status.good) :
    ∃ t, complete p st (s.doHal a) = .next t ∧
      PumpMove p s t ((s.job p).ended st) { s.pipe p with frozen := true } (s.en.released t.anyArmed)
        [.hal a, .hal (.disablePipeInt p), .hal (.resetPipe p), .callback (s.job p).cb st (s.job p).processed] := by
  have hacked := (PumpMove.refl p s).hal a
  have hend := hacked.endJob st
  rw [Job.endOutputs, if_pos hst] at hend
  exact ⟨_, hacked.complete st hplan harmed, hend⟩

/-- Settles O48: the flag is acknowledged and the job ends, the error first. -/
theorem pipeIsrErrorStall : Obligations.PipeIsrErrorStall := by
  intro s p hplan hpos hlt harmed hready hfault q j failed st
  have hexec := exec_pipeIsr (s := s) hpos hlt
  by_cases herror : (s.halPipe q).error = 0#5
  · have hfailed : failed = false := decide_eq_false (not_not.mpr herror)
    obtain ⟨t, hended, hmove⟩ := complete_acked (.ackStall q) hplan harmed (st := Status.stall) (by decide)
    have hevent := pipeIsr_of_stall harmed hready herror (hfault.resolve_left (not_not.mpr herror))
    simp only [st, hfailed, Bool.false_eq_true, if_false, ← EnableRegs.released_eq]
    exact ⟨t, (hexec.trans hevent).trans hended, hmove.job, hmove.pipe, hmove.issued, hmove.frame⟩
  · have hfailed : failed = true := decide_eq_true herror
    obtain ⟨t, hended, hmove⟩ := complete_acked (.ackErrors q) hplan harmed (errorCode_ne_good herror)
    rw [errorCode_eq_append] at hended hmove
    have hevent := pipeIsr_of_error harmed hready herror
    simp only [st, hfailed, if_true, ← EnableRegs.released_eq]
    exact ⟨t, (hexec.trans hevent).trans hended, hmove.job, hmove.pipe, hmove.issued, hmove.frame⟩

/-- The state with one NAK of the job's budget taken (rule R345). -/
def State.nakTaken (p : Nat) (s : State) : State :=
  (s.doHal (.ackNak p)).setJob p { s.job p with nak := (s.job p).nak - 1 }

theorem nakEvent_eq (p : Nat) (s : State) :
    nakEvent p s =
      if (s.job p).nak ≤ 1 then complete p Status.nakTimeout (s.nakTaken p) else .next (s.nakTaken p) := by
  simp [nakEvent, State.nakTaken, State.setJob_job, Nat.sub_eq_zero_iff_le]

theorem PumpMove.nakTaken (p : Nat) (s : State) :
    PumpMove p s (s.nakTaken p) { s.job p with nak := (s.job p).nak - 1 } (s.pipe p) s.en [.hal (.ackNak p)] :=
  ((PumpMove.refl p s).hal _).setJob _

/-- Settles O49: the budget goes down by one, and the job ends when it is spent. -/
theorem pipeIsrNak : Obligations.PipeIsrNak := by
  intro s p hplan hpos hlt harmed hready herror hstall hnak hen htype q j out
  have hexec := ((exec_pipeIsr hpos hlt).trans (pipeIsr_of_nak harmed hready herror hstall hnak hen htype)).trans
    (nakEvent_eq q s)
  have htaken := PumpMove.nakTaken q s
  by_cases hlast : j.nak ≤ 1
  · have hend := htaken.endJob Status.nakTimeout
    rw [Nat.sub_eq_zero_of_le hlast] at hend
    rw [if_pos hlast, htaken.complete _ hplan harmed] at hexec
    refine ⟨_, hexec, ?_⟩
    simp only [out, decide_eq_true hlast, if_true, true_and, Bool.or_true, ← EnableRegs.released_eq]
    exact ⟨hend.job, hend.pipe, hend.issued, hend.frame⟩
  · rw [if_neg hlast] at hexec
    refine ⟨_, hexec, ?_⟩
    simp only [out, decide_eq_false hlast, Bool.false_eq_true, if_false, false_and, Bool.or_false]
    exact ⟨htaken.job, htaken.pipe, htaken.issued, htaken.frame⟩

end Sys2Proof.Machine
end

section
/-! PROOFS. The family `44_async_pump.md`: PIPE_ISR on an IN job's ready event (rule R351). -/

namespace Sys2Proof.Machine

/-! ### The actions of a pipe on which they have no effect, and its ready signal (rule R422) -/

section
variable {s : State} {p : Nat} {a : HalAction} {f : HalPipe → HalPipe}

theorem State.doHal_hal_of_not_live (ha : halEffect a (s.emit (.hal a)) = (s.emit (.hal a)).onLive p f)
    (h : s.live p = false) : (s.doHal a).hal = s.hal := by
  have hlive : (s.emit (.hal a)).live p = false := h
  rw [State.doHal, ha, State.onLive, hlive]
  rfl

theorem State.doHal_hal_of_not_taken {ready : HalPipe → Bool}
    (ha : halEffect a (s.emit (.hal a)) = (s.emit (.hal a)).onTaken p ready f) (h : s.takes p ready = false) :
    (s.doHal a).hal = s.hal := by
  have htakes : (s.emit (.hal a)).takes p ready = false := h
  rw [State.doHal, ha, State.onTaken, htakes]
  rfl

theorem State.doHal_part_of_taken {α : Type} {ready : HalPipe → Bool} (part : HalPipe → α)
    (ha : halEffect a (s.emit (.hal a)) = (s.emit (.hal a)).onTaken p ready f) (hf : ∀ h, part (f h) = part h) :
    part ((s.doHal a).halPipe p) = part (s.halPipe p) := by
  rw [State.doHal, ha, State.onTaken_halPipe]
  split
  · exact hf _
  · rfl

theorem State.doHal_halPipe_of_taken {ready : HalPipe → Bool}
    (ha : halEffect a (s.emit (.hal a)) = (s.emit (.hal a)).onTaken p ready f) (h : s.takes p ready = true) :
    (s.doHal a).halPipe p = f (s.halPipe p) := by
  have htakes : (s.emit (.hal a)).takes p ready = true := h
  rw [State.doHal, ha, State.onTaken_halPipe, if_pos ⟨rfl, htakes⟩]
  rfl

/-- An action that leaves a part of what the HAL holds of a pipe as it is, whether or not the action has an effect. -/
theorem State.doHal_part {α : Type} (part : HalPipe → α)
    (ha : halEffect a (s.emit (.hal a)) = (s.emit (.hal a)).onLive p f) (hf : ∀ h, part (f h) = part h) :
    part ((s.doHal a).halPipe p) = part (s.halPipe p) := by
  rw [State.doHal, ha, State.onLive_halPipe]
  split
  · exact hf _
  · rfl

theorem State.live_iff : s.live p = true ↔ (s.halPipe p).on = true ∧ (s.pipe p).alloc = true := by
  rw [State.live, Bool.and_eq_true]

theorem State.live_of_hal {t : State} (hhal : t.hal = s.hal) (halloc : (t.pipe p).alloc = (s.pipe p).alloc) :
    t.live p = s.live p := by
  rw [State.live, State.live, State.halPipe, State.halPipe, hhal, halloc]

theorem State.live_of_takes {ready : HalPipe → Bool} (h : s.takes p ready = false) : s.live p = false := by
  rw [State.takes, Bool.or_eq_false_iff] at h
  exact h.1

end

/-! ### The bytes of a packet, one after another (rule R351) -/

/-- `n` bytes have come from `hal.fifo_read(p)` into host buffer `b` from offset `off` on: the oldest of the FIFO, or free
bytes where the action has no effect (rule R90; log entry 9). -/
structure State.Copied (p b off n : Nat) (s t : State) (bytes : List Byte) : Prop where
  length : bytes.length = n
  hbuf : t.hbuf = Memory.writeBytes s.hbuf (hostAddr b off) bytes
  issued : Issued s t (hals (List.replicate n (.fifoRead p)))
  takes : t.takes p HalPipe.inReady = s.takes p HalPipe.inReady
  taken : s.takes p HalPipe.inReady = true → n ≤ (s.halPipe p).fifo.length →
    bytes = (s.halPipe p).fifo.take n ∧ t.halPipe p = { s.halPipe p with fifo := (s.halPipe p).fifo.drop n } ∧ t.free = s.free
  untaken : s.takes p HalPipe.inReady = false → t.hal = s.hal
  frame : t = { s with hbuf := t.hbuf, hal := t.hal, trace := t.trace, free := t.free }

section
variable {p b off n : Nat} {s t u : State} {bytes : List Byte}

theorem State.Copied.refl (p b off : Nat) (s : State) : State.Copied p b off 0 s s [] where
  length := rfl
  hbuf := rfl
  issued := rfl
  takes := rfl
  taken _ _ := ⟨rfl, rfl, rfl⟩
  untaken _ := rfl
  frame := rfl

theorem State.drawFree_takes (p : Nat) (s : State) (ready : HalPipe → Bool) :
    (s.drawFree p).takes p ready = s.takes p ready := by
  rw [State.drawFree_eq]
  rfl

theorem State.drawFree_hal (p : Nat) (s : State) : (s.drawFree p).hal = s.hal := by
  rw [State.drawFree_eq]
  rfl

theorem State.fifoPop_hal_of_not_taken (h : s.takes p HalPipe.inReady = false) : (s.fifoPop p).hal = s.hal :=
  (State.doHal_hal_of_not_taken (a := .fifoRead p) rfl ((State.drawFree_takes ..).trans h)).trans (State.drawFree_hal p s)

theorem State.fifoPop_takes (p : Nat) (s : State) : (s.fifoPop p).takes p HalPipe.inReady = s.takes p HalPipe.inReady := by
  have hpipe : (s.fifoPop p).pipe p = s.pipe p := congrArg (·.getD p Pipe.unallocated) (State.fifoPop_pipes p s)
  have hdraw : (s.drawFree p).halPipe p = s.halPipe p :=
    congrArg (fun h : Hal => h.pipes.getD p HalPipe.disabled) (State.drawFree_hal p s)
  have hpart {α : Type} (part : HalPipe → α) (hf : ∀ h : HalPipe, part { h with fifo := h.fifo.tail } = part h) :
      part ((s.fifoPop p).halPipe p) = part (s.halPipe p) := by
    rw [← hdraw]
    exact State.doHal_part_of_taken part rfl hf
  rw [State.takes, State.live, hpipe, State.fifoPop_flags, hpart HalPipe.on fun _ => rfl,
    hpart HalPipe.inReady fun _ => rfl, State.takes, State.live]

/-- Where the action has its effect and the FIFO holds a byte, no free byte is drawn. -/
theorem State.fifoPop_of_taken {x : Byte} {xs : List Byte} (h : s.takes p HalPipe.inReady = true)
    (hx : (s.halPipe p).fifo = x :: xs) : s.fifoHead p = x ∧ s.fifoPop p = s.doHal (.fifoRead p) := by
  have hreadable : s.readable p = x :: xs := (if_pos h).trans hx
  rw [State.fifoHead, State.fifoPop, State.drawFree, hreadable]
  exact ⟨rfl, rfl⟩

theorem State.setHostByte_frame {o : Output} {hal : Hal} {free : Nat} (b off : Nat) (x : Byte)
    (h : u = ((s.emit o).setHal hal).setFree free) :
    u.setHostByte b off x = { s with
      hbuf := (u.setHostByte b off x).hbuf, hal := (u.setHostByte b off x).hal
      trace := (u.setHostByte b off x).trace, free := (u.setHostByte b off x).free } := by
  rw [h]
  rfl

/-- One byte. -/
theorem State.Copied.byte (p b off : Nat) (s : State) :
    State.Copied p b off 1 s (act (.fifoToHost p b off) s) [s.fifoHead p] where
  length := rfl
  hbuf := by simp only [act, State.setHostByte_hbuf, State.fifoPop_hbuf, Memory.writeBytes]
  issued := State.fifoPop_trace p s
  takes := State.fifoPop_takes p s
  taken htakes hlen := by
    obtain ⟨x, xs, hx⟩ := List.exists_cons_of_length_pos hlen
    obtain ⟨hhead, hpop⟩ := State.fifoPop_of_taken htakes hx
    have hpipe := State.doHal_halPipe_of_taken (a := .fifoRead p) rfl htakes
    rw [← hpop] at hpipe
    have hfree : (s.fifoPop p).free = s.free := by rw [hpop, State.doHal_free]
    refine ⟨by rw [hhead, hx]; rfl, hpipe.trans ?_, hfree⟩
    rw [List.drop_one]
  untaken h := State.fifoPop_hal_of_not_taken h
  frame := State.setHostByte_frame b off _ (State.fifoPop_eq p s)

theorem State.Copied.job (h : State.Copied p b off n s t bytes) (q : Nat) : t.job q = s.job q :=
  (congrArg (State.job · q) h.frame :)

theorem State.Copied.pipe (h : State.Copied p b off n s t bytes) (q : Nat) : t.pipe q = s.pipe q :=
  (congrArg (State.pipe · q) h.frame :)

/-- Where `hal.ack_in` has its effect it clears the ready signal. -/
theorem State.Copied.ackIn_inReady (h : State.Copied p b off n s t bytes) (j : Job)
    (htakes : s.takes p HalPipe.inReady = true) :
    (((t.setJob p j).doHal (.ackIn p)).halPipe p).inReady = false :=
  congrArg HalPipe.inReady
    (State.doHal_halPipe_of_taken (s := t.setJob p j) (a := .ackIn p) rfl (h.takes.trans htakes))

theorem State.Copied.ackIn_hal_of_not_taken (h : State.Copied p b off n s t bytes) (j : Job)
    (hnot : s.takes p HalPipe.inReady = false) : ((t.setJob p j).doHal (.ackIn p)).hal = s.hal :=
  (State.doHal_hal_of_not_taken (s := t.setJob p j) (a := .ackIn p) rfl (h.takes.trans hnot)).trans (h.untaken hnot)

theorem State.Copied.cons {x : Byte} (h : State.Copied p b off 1 s t [x]) (h' : State.Copied p b (off + 1) n t u bytes) :
    State.Copied p b off (n + 1) s u (x :: bytes) where
  length := by rw [List.length_cons, h'.length]
  hbuf := by
    have hnext : hostAddr b (off + 1) = hostAddr b off + 1 := (Nat.add_assoc _ _ _).symm
    rw [h'.hbuf, h.hbuf, hnext]
    rfl
  issued := h.issued.trans h'.issued
  takes := h'.takes.trans h.takes
  taken htakes hlen := by
    obtain ⟨hx, hpipe, hfree⟩ := h.taken htakes (Nat.one_le_of_lt hlen)
    obtain ⟨hbytes, hpipe', hfree'⟩ := h'.taken (h.takes.trans htakes) (by rw [hpipe, List.length_drop]; omega)
    rw [hpipe] at hbytes hpipe'
    refine ⟨?_, ?_, hfree'.trans hfree⟩
    · rw [Nat.add_comm, List.take_add, ← hx, ← hbytes]
      rfl
    · rw [hpipe', List.drop_drop, Nat.add_comm]
  untaken hnot := (h'.untaken (h.takes.trans hnot)).trans (h.untaken hnot)
  frame := h'.frame.trans (by rw [h.frame])

theorem State.copied_range' (p b off n k : Nat) (s : State) :
    ∃ bytes, State.Copied p b (off + k) n s
      (acts ((List.range' k n).map fun i => Act.fifoToHost p b (off + i)) s) bytes := by
  induction n generalizing k s with
  | zero => exact ⟨[], .refl p b (off + k) s⟩
  | succ n ih =>
    obtain ⟨bytes, hrest⟩ := ih (k + 1) (act (.fifoToHost p b (off + k)) s)
    exact ⟨_, (State.Copied.byte p b (off + k) s).cons hrest⟩

end

/-! ### The packet of a ready event (rule R351) -/

/-- The pipe is frozen. -/
def State.packetFrozen (p : Nat) (s : State) : State := act (.setFrozen p true) (s.doHal (.freezePipe p))

/-- So many bytes of the packet are stored in the job's buffer. -/
def State.packetCopied (p n : Nat) (s : State) : State := acts (receiveActs p n (s.packetFrozen p)) (s.packetFrozen p)

/-- The bytes are counted and the packet is acknowledged. -/
def State.packetStored (p n : Nat) (s : State) : State :=
  ((s.packetCopied p n).setJob p { s.job p with processed := (s.job p).processed + n }).doHal (.ackIn p)

section
variable {p n : Nat} {s : State}

theorem PumpMove.packetFrozen (p : Nat) (s : State) :
    PumpMove p s (s.packetFrozen p) (s.job p) { s.pipe p with frozen := true } s.en [.hal (.freezePipe p)] :=
  ((PumpMove.refl p s).hal _).setFrozen true

/-- What freezing leaves of what the HAL holds of the pipe. -/
theorem State.packetFrozen_part {α : Type} (part : HalPipe → α) (hf : ∀ h : HalPipe, part { h with frozen := true } = part h) :
    part ((s.packetFrozen p).halPipe p) = part (s.halPipe p) :=
  State.doHal_part (a := .freezePipe p) part rfl hf

theorem State.packetFrozen_takes (p : Nat) (s : State) :
    (s.packetFrozen p).takes p HalPipe.inReady = s.takes p HalPipe.inReady := by
  have hpipe : ((s.packetFrozen p).pipe p).alloc = (s.pipe p).alloc := by rw [(PumpMove.packetFrozen p s).pipe_self]
  have hflags : (s.packetFrozen p).flags = s.flags := (congrArg State.flags (PumpMove.packetFrozen p s).frame :)
  rw [State.takes, State.live, hpipe, hflags, State.packetFrozen_part HalPipe.on fun _ => rfl,
    State.packetFrozen_part HalPipe.inReady fun _ => rfl, State.takes, State.live]

theorem State.copied_packet (p n : Nat) (s : State) :
    ∃ bytes, State.Copied p (s.job p).buf (s.job p).processed n (s.packetFrozen p) (s.packetCopied p n) bytes := by
  have hcopied := State.copied_range' p (s.job p).buf (s.job p).processed n 0 (s.packetFrozen p)
  rw [← List.range_eq_range'] at hcopied
  rw [State.packetCopied, receiveActs, (PumpMove.packetFrozen p s).job_self]
  exact hcopied

/-- What storing the packet leaves (rule R351). -/
structure State.Stored (p n : Nat) (s u : State) (bytes : List Byte) : Prop where
  length : bytes.length = n
  hbuf : u.hbuf = Memory.writeBytes s.hbuf (hostAddr (s.job p).buf (s.job p).processed) bytes
  job : ∀ q, u.job q = if q = p then { s.job p with processed := (s.job p).processed + n } else s.job q
  pipe : ∀ q, u.pipe q = if q = p then { s.pipe p with frozen := true } else s.pipe q
  issued : Issued s u (hals ([.freezePipe p] ++ List.replicate n (.fifoRead p) ++ [.ackIn p]))
  taken : s.takes p HalPipe.inReady = true → n ≤ (s.halPipe p).fifo.length →
    bytes = (s.halPipe p).fifo.take n ∧ (u.halPipe p).inReady = false ∧ u.free = s.free
  untaken : s.takes p HalPipe.inReady = false → u.hal = s.hal ∧ u.live p = false
  frame : u = { s with
    hbuf := u.hbuf, jobs := u.jobs, pipes := u.pipes, hal := u.hal, trace := u.trace, free := u.free }

theorem State.stored_packetStored (p n : Nat) (s : State) : ∃ bytes, State.Stored p n s (s.packetStored p n) bytes := by
  obtain ⟨bytes, hcopied⟩ := State.copied_packet p n s
  have hfrozen := PumpMove.packetFrozen p s
  have hstored : PumpMove p (s.packetCopied p n) (s.packetStored p n) _ _ _ [.hal (.ackIn p)] :=
    ((PumpMove.refl p (s.packetCopied p n)).setJob
      { s.job p with processed := (s.job p).processed + n }).hal (.ackIn p)
  have hhbuf : (s.packetStored p n).hbuf = (s.packetCopied p n).hbuf := (congrArg State.hbuf hstored.frame :)
  have hfree : (s.packetStored p n).free = (s.packetCopied p n).free := (congrArg State.free hstored.frame :)
  refine ⟨bytes, hcopied.length, ?_, fun q => ?_, fun q => ?_, ?_, fun htakes hlen => ?_, fun hnot => ?_, ?_⟩
  · have hkept : (s.packetFrozen p).hbuf = s.hbuf := (congrArg State.hbuf hfrozen.frame :)
    rw [hhbuf, hcopied.hbuf, hkept]
  · rw [hstored.job, hcopied.job, hfrozen.job]
    split <;> rfl
  · rw [hstored.pipe, hcopied.pipe, hcopied.pipe, hfrozen.pipe_self, hfrozen.pipe]
    split <;> rfl
  · simpa [hals] using (hfrozen.issued.trans hcopied.issued).trans hstored.issued
  · rw [← State.packetFrozen_takes] at htakes
    rw [← State.packetFrozen_part HalPipe.fifo fun _ => rfl] at hlen ⊢
    obtain ⟨hbytes, -, hcopiedFree⟩ := hcopied.taken htakes hlen
    have hfirst : (s.packetFrozen p).free = s.free := (congrArg State.free hfrozen.frame :)
    exact ⟨hbytes, hcopied.ackIn_inReady _ htakes, (hfree.trans hcopiedFree).trans hfirst⟩
  · have hlive := State.live_of_takes hnot
    have hfirst : (s.packetFrozen p).hal = s.hal := State.doHal_hal_of_not_live (a := .freezePipe p) rfl hlive
    rw [← State.packetFrozen_takes] at hnot
    have hhal : (s.packetStored p n).hal = s.hal := (hcopied.ackIn_hal_of_not_taken _ hnot).trans hfirst
    have halloc : ((s.packetStored p n).pipe p).alloc = (s.pipe p).alloc := by
      rw [hstored.pipe_self, hcopied.pipe, hfrozen.pipe_self]
    exact ⟨hhal, (State.live_of_hal hhal halloc).trans hlive⟩
  · have hframe := hfrozen.frame
    have hframe' := hcopied.frame
    rw [hhbuf, hfree]
    exact hstored.frame.trans (by rw [hframe', hframe])

theorem inReadyEvent_eq (hcount : (s.halPipe p).byteCount = (s.halPipe p).fifo.length)
    (hn : n = min (s.halPipe p).fifo.length ((s.job p).total - (s.job p).processed)) :
    inReadyEvent p s =
      if (s.halPipe p).fifo.length < (s.pipe p).mps ∨ (s.job p).processed + n = (s.job p).total then
        complete p Status.good (s.packetStored p n)
      else .next (acts (primeInActs p) (s.packetStored p n)) := by
  obtain ⟨bytes, hstored⟩ := State.stored_packetStored p n s
  have hbytes : ((s.packetFrozen p).halPipe p).byteCount = (s.halPipe p).fifo.length :=
    (State.packetFrozen_part HalPipe.byteCount fun _ => rfl).trans hcount
  have hjob := (PumpMove.packetFrozen p s).job_self
  have hmps : ((s.packetStored p n).pipe p).mps = (s.pipe p).mps := by rw [hstored.pipe, if_pos rfl]
  have hdone : (s.packetStored p n).job p = { s.job p with processed := (s.job p).processed + n } :=
    (hstored.job p).trans (if_pos rfl)
  have hevent : inReadyEvent p s =
      let v := s.packetFrozen p
      let cnt := (v.halPipe p).byteCount
      let take := min cnt ((v.job p).total - (v.job p).processed)
      let u := ((s.packetCopied p take).setJob p { v.job p with processed := (v.job p).processed + take }).doHal (.ackIn p)
      if cnt < (u.pipe p).mps ∨ (u.job p).processed = (u.job p).total then complete p Status.good u
      else .next (acts (primeInActs p) u) := rfl
  have hu : ((s.packetCopied p n).setJob p { s.job p with processed := (s.job p).processed + n }).doHal (.ackIn p) =
      s.packetStored p n := rfl
  simp only [hbytes, hjob, ← hn, hu, hmps, hdone] at hevent
  exact hevent

end

/-! ### What follows the packet changes nothing of it (rule R351, rule R352) -/

section
variable {p : Nat} {u : State}

/-- What the HAL holds after a job has ended with `Good`. -/
theorem State.endJob_good_hal (p : Nat) (u : State) :
    (u.endJob p Status.good).hal = ((u.doHal (.disablePipeInt p)).doHal (.freezePipe p)).hal := by
  simp only [State.endJob, State.completeBody, State.emit_hal, State.setEn_hal, State.setJob_hal, State.setPipe_hal,
    ne_eq, not_true_eq_false, if_false]

/-- What the HAL holds after an IN packet has been asked for. -/
theorem acts_primeInActs_hal (p : Nat) (u : State) : (acts (primeInActs p) u).hal =
    (((act (.jobInflight p 0) u).doHal (.setToken p .receive)).doHal (.unfreezePipe p)).hal := by
  have hsend (v : State) : (v.doHal (.sendIn p)).hal = v.hal := rfl
  simp only [primeInActs, acts]
  rw [act, hsend]
  simp only [act, State.setPipe_hal]

section
variable {a a' : HalAction} {f f' : HalPipe → HalPipe}
variable (ha : ∀ v, halEffect a v = v.onLive p f) (ha' : ∀ v, halEffect a' v = v.onLive p f')
include ha ha'

/-- Two actions that leave a part of what the HAL holds of a pipe as it is. -/
theorem State.doHal_doHal_part {α : Type} (part : HalPipe → α) (hf : ∀ h, part (f h) = part h)
    (hf' : ∀ h, part (f' h) = part h) : part (((u.doHal a).doHal a').halPipe p) = part (u.halPipe p) :=
  (State.doHal_part part (ha' _) hf').trans (State.doHal_part part (ha _) hf)

/-- Two actions that have no effect. -/
theorem State.doHal_doHal_hal_of_not_live (h : u.live p = false) : ((u.doHal a).doHal a').hal = u.hal := by
  have hfirst := State.doHal_hal_of_not_live (ha _) h
  have hlive : (u.doHal a).live p = u.live p := State.live_of_hal hfirst (by rw [State.doHal_pipe])
  exact (State.doHal_hal_of_not_live (ha' _) (hlive.trans h)).trans hfirst

end

theorem State.halPipe_of_hal {v : State} (h : u.hal = v.hal) : u.halPipe p = v.halPipe p := by
  rw [State.halPipe, State.halPipe, h]

theorem State.endJob_inReady : ((u.endJob p Status.good).halPipe p).inReady = (u.halPipe p).inReady := by
  rw [State.halPipe_of_hal (State.endJob_good_hal p u)]
  refine State.doHal_doHal_part (fun _ => rfl) (fun _ => rfl) HalPipe.inReady ?_ ?_ <;> exact fun _ => rfl

theorem acts_primeInActs_inReady : ((acts (primeInActs p) u).halPipe p).inReady = (u.halPipe p).inReady := by
  rw [State.halPipe_of_hal (acts_primeInActs_hal p u)]
  refine State.doHal_doHal_part (u := act (.jobInflight p 0) u) (fun _ => rfl) (fun _ => rfl) HalPipe.inReady ?_ ?_ <;>
    exact fun _ => rfl

theorem State.endJob_hal_of_not_live (h : u.live p = false) : (u.endJob p Status.good).hal = u.hal :=
  (State.endJob_good_hal p u).trans (State.doHal_doHal_hal_of_not_live (fun _ => rfl) (fun _ => rfl) h)

theorem acts_primeInActs_hal_of_not_live (h : u.live p = false) : (acts (primeInActs p) u).hal = u.hal :=
  (acts_primeInActs_hal p u).trans
    (State.doHal_doHal_hal_of_not_live (u := act (.jobInflight p 0) u) (fun _ => rfl) (fun _ => rfl) h)

end

/-- Bytes written in a row to a host buffer are where the statements look for them (rule R80 (2)). -/
theorem HostStored.of_writeBytes {s t : State} {b off : Nat} {l : List Byte} (hwf : Memory.wf s.hbuf = true)
    (hl : off + l.length ≤ 65536) (h : t.hbuf = Memory.writeBytes s.hbuf (hostAddr b off) l) :
    HostStored s t b off l := by
  have hread (c o : Nat) : t.hostByte c o =
      if hostAddr b off ≤ hostAddr c o ∧ hostAddr c o < hostAddr b off + l.length then
        l.getD (hostAddr c o - hostAddr b off) 0#8 else s.hostByte c o := by
    rw [State.hostByte, h]
    exact Memory.read_writeBytes s.hbuf _ l hwf _
  refine ⟨fun k hk => ?_, fun c o ho hout => ?_⟩
  · have hplace : hostAddr b (off + k) = hostAddr b off + k := (Nat.add_assoc _ _ _).symm
    rw [hread, hplace, if_pos (by omega), Nat.add_sub_cancel_left]
  · rw [hread, if_neg fun hin => hout ?_]
    simp only [hostAddr] at hin
    omega

section
variable {p n : Nat} {s u t : State} {bytes : List Byte} {j : Job} {r : Pipe} {e : EnableRegs} {out : List Output}
variable (h : State.Stored p n s u bytes) (hmove : PumpMove p u t j r e out)
include h hmove

theorem State.Stored.others {q : Nat} (hq : q ≠ p) : t.job q = s.job q ∧ t.pipe q = s.pipe q := by
  rw [hmove.job, hmove.pipe, h.job, h.pipe]
  simp only [if_neg hq, and_self]

theorem State.Stored.hostStored (hwf : Memory.wf s.hbuf = true) (hroom : (s.job p).processed + n ≤ 65536) :
    HostStored s t (s.job p).buf (s.job p).processed bytes := by
  have hhbuf : t.hbuf = u.hbuf := (congrArg State.hbuf hmove.frame :)
  exact .of_writeBytes hwf (by rwa [h.length]) (hhbuf.trans h.hbuf)

theorem State.Stored.frame_after : t = { s with
    en := e, hbuf := t.hbuf, jobs := t.jobs, pipes := t.pipes, hal := t.hal, trace := t.trace, free := t.free } := by
  have hhbuf : t.hbuf = u.hbuf := (congrArg State.hbuf hmove.frame :)
  have hfree : t.free = u.free := (congrArg State.free hmove.frame :)
  have hframe := h.frame
  rw [hhbuf, hfree]
  exact hmove.frame.trans (by rw [hframe])

/-- What the statement says of the packet's bytes and of the HAL, when the rest of the event keeps `in_ready` and, on a pipe
on which actions have no effect, all that the HAL holds. -/
theorem State.Stored.packet (hlen : n ≤ (s.halPipe p).fifo.length)
    (hready : (t.halPipe p).inReady = (u.halPipe p).inReady) (hhal : u.live p = false → t.hal = u.hal) :
    (s.takes p HalPipe.inReady = true →
      bytes = (s.halPipe p).fifo.take n ∧ (t.halPipe p).inReady = false ∧ t.free = s.free) ∧
    (s.takes p HalPipe.inReady = false → t.hal = s.hal) := by
  have hfree : t.free = u.free := (congrArg State.free hmove.frame :)
  refine ⟨fun htakes => ?_, fun hnot => ?_⟩
  · obtain ⟨hbytes, hacked, hfirst⟩ := h.taken htakes hlen
    exact ⟨hbytes, hready.trans hacked, hfree.trans hfirst⟩
  · obtain ⟨hkept, hlive⟩ := h.untaken hnot
    exact (hhal hlive).trans hkept

end

/-- Settles O47: the packet is stored and counted, then the job ends or the next packet is asked for. -/
theorem pipeIsrInReady : Obligations.PipeIsrInReady := by
  intro s p hplan hwf hpos hlt harmed hdir hready hcount htotal hle q j n done ends taken
  have hexec := ((exec_pipeIsr hpos hlt).trans (pipeIsr_of_inReady harmed hdir hready)).trans
    (inReadyEvent_eq (n := n) hcount rfl)
  obtain ⟨bytes, hstored⟩ := State.stored_packetStored q n s
  have htakes : s.takes q HalPipe.inReady = true ↔ taken := by
    rw [State.takes_eq, State.live_iff, hready, and_iff_left rfl]
  have hnot : ¬ taken → s.takes q HalPipe.inReady = false := fun h => Bool.eq_false_iff.mpr (mt htakes.mp h)
  have hroom : j.processed + n ≤ 65536 := by
    simp only [n, j, q]
    omega
  have hlen : n ≤ (s.halPipe q).fifo.length := Nat.min_le_left ..
  generalize s.packetStored q n = u at hexec hstored
  have hplan' : u.plan = [] := (congrArg State.plan hstored.frame).trans hplan
  have hjob : u.job q = { j with processed := done } := (hstored.job q).trans (if_pos rfl)
  have hpipe : u.pipe q = { s.pipe q with frozen := true } := (hstored.pipe q).trans (if_pos rfl)
  have hen : u.en = s.en := (congrArg State.en hstored.frame :)
  have hself := PumpMove.refl q u
  rw [hjob, hpipe, hen] at hself
  by_cases hlast : (s.halPipe q).fifo.length < (s.pipe q).mps ∨ done = j.total
  · have hends : ends = true := decide_eq_true hlast
    have hmove := hself.endJob Status.good
    obtain ⟨htaken, huntaken⟩ := hstored.packet hmove hlen State.endJob_inReady State.endJob_hal_of_not_live
    have hissued := hstored.issued.trans hmove.issued
    have hframe := hstored.frame_after hmove
    rw [if_pos hlast, hself.complete _ hplan' harmed] at hexec
    simp only [hends, true_and, ← EnableRegs.released_eq, Bool.true_eq_false, false_implies, true_implies]
    refine ⟨_, bytes, hexec, hstored.length, hstored.hostStored hmove hwf hroom, htaken ∘ htakes.mpr, huntaken ∘ hnot,
      fun r hr => hstored.others hmove hr, ⟨hmove.job_self, hmove.pipe_self, ?_⟩, hframe⟩
    simpa [hals, Job.endOutputs, Status.good] using hissued
  · have hends : ends = false := decide_eq_false hlast
    have hmove := hself.primeIn
    obtain ⟨htaken, huntaken⟩ := hstored.packet hmove hlen acts_primeInActs_inReady acts_primeInActs_hal_of_not_live
    have hissued := hstored.issued.trans hmove.issued
    have hframe := hstored.frame_after hmove
    rw [if_neg hlast] at hexec
    simp only [hends, Bool.false_eq_true, false_and, if_false, false_implies, true_implies, true_and]
    refine ⟨_, bytes, hexec, hstored.length, hstored.hostStored hmove hwf hroom, htaken ∘ htakes.mpr, huntaken ∘ hnot,
      fun r hr => hstored.others hmove hr, ⟨hmove.job_self, hmove.pipe_self, ?_⟩, hframe⟩
    simpa [hals, primeInActions] using hissued

end Sys2Proof.Machine
end

section
/-! PROOFS. The family `44_async_pump.md`: ABORT_ALL_PIPES (rule R360). -/

namespace Sys2Proof.Machine

/-! ### Whether a job is armed -/

theorem State.job_eq_tail (s : State) (p : Nat) : s.job (p + 1) = s.jobs.tail.getD p Job.unarmed := by
  cases hjobs : s.jobs <;> simp [State.job, hjobs]

theorem State.anyArmed_iff {s : State} : s.anyArmed = true ↔ ∃ p, 1 ≤ p ∧ (s.job p).enabled = true := by
  constructor
  · intro h
    obtain ⟨j, hmem, hj⟩ := List.any_eq_true.mp h
    obtain ⟨k, hk, rfl⟩ := List.mem_iff_getElem.mp hmem
    refine ⟨k + 1, Nat.le_add_left 1 k, ?_⟩
    rwa [State.job_eq_tail, List.getD_eq_getElem _ _ hk]
  · rintro ⟨p, hp, hj⟩
    by_contra hnone
    rw [State.job_not_enabled (Bool.eq_false_iff.mpr hnone) hp] at hj
    cases hj

theorem State.anyArmed_of_job {s : State} {p : Nat} (hp : 1 ≤ p) (h : (s.job p).enabled = true) : s.anyArmed = true :=
  State.anyArmed_iff.mpr ⟨p, hp, h⟩

/-- Only the jobs of the data pipes are ever armed. -/
theorem State.mem_dataPipes_of_enabled {s : State} {p : Nat} (hjobs : s.jobs.length = s.cfg.nPipes) (hp : 1 ≤ p)
    (h : (s.job p).enabled = true) : p ∈ s.cfg.dataPipes := by
  refine Config.mem_dataPipes.mpr ⟨hp, ?_⟩
  by_contra hge
  rw [State.job, List.getD_eq_default _ _ (by omega)] at h
  cases h

/-! ### One pipe (rule R360) -/

/-- The job of pipe `p`, if it is armed, ends with `Aborted` (rule R360). -/
def State.abortJob (s : State) (p : Nat) : State := if (s.job p).enabled then s.endJob p Status.aborted else s

/-- What aborting the job of pipe `p` issues (rule R360). -/
def State.abortOutputsOf (s : State) (p : Nat) : List Output :=
  if (s.job p).enabled then (s.job p).endOutputs p Status.aborted else []

section
variable {s : State} {p : Nat}

theorem State.abortJob_of_enabled (h : (s.job p).enabled = true) : s.abortJob p = s.endJob p Status.aborted := if_pos h

theorem State.abortJob_of_not_enabled (h : (s.job p).enabled = false) : s.abortJob p = s := if_neg (by simp [h])

@[simp] theorem State.abortJob_plan (s : State) (p : Nat) : (s.abortJob p).plan = s.plan := by
  unfold State.abortJob
  split <;> simp [State.endJob]

@[simp] theorem State.abortJob_inputs (s : State) (p : Nat) : (s.abortJob p).inputs = s.inputs := by
  unfold State.abortJob
  split <;> simp [State.endJob]

theorem State.completeBody_setFg (st : Status) (f : List Micro) :
    (s.setFg f).completeBody p st = (s.completeBody p st).setFg f := by
  have hhal (a : HalAction) (u : State) : (u.setFg f).doHal a = (u.doHal a).setFg f := act_with_fg (.hal a) u f
  simp only [State.completeBody, hhal]
  rfl

theorem micro_complete {rest : List Micro} (st : Status) (h : (s.job p).enabled = true) :
    micro (.complete p st) (s.setFg rest) =
      .ran ((s.completeBody p st).setFg (.callback (s.job p).cb st (s.job p).processed :: rest)) := by
  have hbody : micro (.complete p st) (s.setFg rest) =
      thenDo [.callback (s.job p).cb st (s.job p).processed] ((s.setFg rest).completeBody p st) := if_pos h
  rw [hbody, State.completeBody_setFg, thenDo_setFg]
  rfl

/-- A callback that the application does not answer. -/
theorem micro_callback {rest : List Micro} (cb : Nat) (st : Status) (n : Nat) (hplan : s.plan = []) :
    micro (.callback cb st n) (s.setFg rest) = .ran ((s.emit (.callback cb st n)).setFg rest) := by
  have hnotify : micro (.callback cb st n) (s.setFg rest) = notifyFg (.callback cb st n) (s.setFg rest) := rfl
  rw [hnotify, notifyFg, State.emit_plan, State.setFg_plan, hplan]
  rfl

/-- An armed job: the test, the `critical` body of `Complete`, and the callback that the application does not answer. -/
theorem RunsTo.endJob {rest : List Micro} (hc : s.calm = true) (hplan : s.plan = []) (h : (s.job p).enabled = true) :
    RunsTo 3 (s.setFg (.abortPipe p :: rest)) ((s.endJob p Status.aborted).setFg rest) := by
  have hcalm : (s.completeBody p Status.aborted).calm = true := State.calm_of_inputs (State.completeBody_inputs ..) hc
  have hplan' : (s.completeBody p Status.aborted).plan = [] := (State.completeBody_plan ..).trans hplan
  have htest : micro (.abortPipe p) (s.setFg rest) =
      Machine.thenDo [.complete p Status.aborted] (s.setFg rest) := if_pos h
  have hcompleted := (RunsTo.thenDo _ hc htest).trans (.ran hc (micro_complete Status.aborted h) hcalm)
  rw [State.endJob]
  generalize s.completeBody p Status.aborted = u at hcompleted hcalm hplan' ⊢
  exact hcompleted.trans (.ran hcalm (micro_callback _ _ _ hplan') hcalm)

theorem RunsTo.abortJob {rest : List Micro} (p : Nat) (hc : s.calm = true) (hplan : s.plan = []) :
    RunsTo 3 (s.setFg (.abortPipe p :: rest)) ((s.abortJob p).setFg rest) := by
  cases h : (s.job p).enabled
  · have hskip : micro (.abortPipe p) (s.setFg rest) = .ran (s.setFg rest) := if_neg (by simp [h])
    rw [State.abortJob_of_not_enabled h]
    have htest : RunsTo 1 (s.setFg (.abortPipe p :: rest)) (s.setFg rest) := .ran hc hskip hc
    exact htest.mono (by decide)
  · rw [State.abortJob_of_enabled h]
    exact .endJob hc hplan h

end

/-! ### The pipes one after another (rule R360) -/

theorem RunsTo.abortJobs {rest : List Micro} {s : State} (l : List Nat) (hc : s.calm = true) (hplan : s.plan = []) :
    RunsTo (3 * l.length) (s.setFg (l.map .abortPipe ++ rest)) ((l.foldl State.abortJob s).setFg rest) := by
  induction l generalizing s with
  | nil => exact .refl _
  | cons p l ih =>
    have hrest := ih (State.calm_of_inputs (s.abortJob_inputs p) hc) ((s.abortJob_plan p).trans hplan)
    refine ((RunsTo.abortJob p hc hplan).trans hrest).mono ?_
    rw [List.length_cons]
    omega

/-- The jobs of the pipes in `l` have been aborted (rule R360): `SOFIE` is restored when the last job has gone. -/
structure State.Aborted (l : List Nat) (s t : State) : Prop where
  job : ∀ q, t.job q = if q ∈ l ∧ (s.job q).enabled = true then (s.job q).ended Status.aborted else s.job q
  pipe : ∀ q, t.pipe q = if q ∈ l ∧ (s.job q).enabled = true then { s.pipe q with frozen := true } else s.pipe q
  issued : Issued s t (l.flatMap s.abortOutputsOf)
  frame : t = { s with
    en := s.en.released (t.anyArmed || !s.anyArmed)
    jobs := t.jobs, pipes := t.pipes, hal := t.hal, trace := t.trace }

theorem State.Aborted.nil (s : State) : State.Aborted [] s s where
  job q := by simp
  pipe q := by simp
  issued := rfl
  frame := by
    rw [Bool.or_not_self]
    rfl

/-- No job is armed by an abort. -/
theorem State.Aborted.enabled {l : List Nat} {s t : State} {q : Nat} (h : State.Aborted l s t)
    (hq : (t.job q).enabled = true) : q ∉ l ∧ (s.job q).enabled = true := by
  rw [h.job] at hq
  split at hq
  next => cases hq
  next hnot => exact ⟨fun hmem => hnot ⟨hmem, hq⟩, hq⟩

theorem State.Aborted.anyArmed {l : List Nat} {s t : State} (h : State.Aborted l s t) (ht : t.anyArmed = true) :
    s.anyArmed = true := by
  obtain ⟨q, hpos, hq⟩ := State.anyArmed_iff.mp ht
  exact State.anyArmed_of_job hpos (h.enabled hq).2

theorem State.Aborted.cons_of_not_enabled {l : List Nat} {s t : State} {p : Nat} (h : State.Aborted l s t)
    (hp : (s.job p).enabled = false) : State.Aborted (p :: l) s t := by
  have hmem (q : Nat) : (q ∈ p :: l ∧ (s.job q).enabled = true) ↔ (q ∈ l ∧ (s.job q).enabled = true) := by
    rw [List.mem_cons, or_and_right, or_iff_right]
    rintro ⟨rfl, hq⟩
    simp [hp] at hq
  refine ⟨fun q => by simp only [hmem, h.job], fun q => by simp only [hmem, h.pipe], ?_, h.frame⟩
  have hnone : s.abortOutputsOf p = [] := if_neg (by simp [hp])
  rw [List.flatMap_cons, hnone]
  exact h.issued

theorem State.Aborted.cons_of_enabled {l : List Nat} {s t : State} {p : Nat} (hpos : 1 ≤ p) (hnot : p ∉ l)
    (hp : (s.job p).enabled = true) (h : State.Aborted l (s.endJob p Status.aborted) t) :
    State.Aborted (p :: l) s t := by
  have hmove := (PumpMove.refl p s).endJob Status.aborted
  have hsame {q : Nat} (hq : q ≠ p) : (s.endJob p Status.aborted).job q = s.job q := (hmove.job q).trans (if_neg hq)
  have hmem {q : Nat} (hq : q ≠ p) : q ∈ p :: l ↔ q ∈ l := List.mem_cons.trans (or_iff_right hq)
  have hself : p ∈ p :: l ∧ (s.job p).enabled = true := ⟨List.mem_cons_self, hp⟩
  refine ⟨fun q => ?_, fun q => ?_, ?_, ?_⟩
  · by_cases hq : q = p
    · rw [hq, h.job, if_neg fun hl => hnot hl.1, hmove.job_self, if_pos hself]
    · simp only [h.job, hsame hq, hmem hq]
  · by_cases hq : q = p
    · rw [hq, h.pipe, if_neg fun hl => hnot hl.1, hmove.pipe_self, if_pos hself]
    · simp only [h.pipe, hsame hq, hmem hq, (hmove.pipe q).trans (if_neg hq)]
  · have hothers : l.flatMap (s.endJob p Status.aborted).abortOutputsOf = l.flatMap s.abortOutputsOf :=
      List.flatMap_congr fun q hq => by
        simp only [State.abortOutputsOf, hsame fun heq : q = p => hnot (heq ▸ hq)]
    have hfirst : s.abortOutputsOf p = (s.job p).endOutputs p Status.aborted := if_pos hp
    rw [List.flatMap_cons, hfirst, ← hothers]
    exact hmove.issued.trans h.issued
  · have hen : (s.endJob p Status.aborted).en.released (t.anyArmed || !(s.endJob p Status.aborted).anyArmed) =
        s.en.released (t.anyArmed || !s.anyArmed) := by
      rw [hmove.en_eq, State.anyArmed_of_job hpos hp]
      have hlater := h.anyArmed
      cases ht : t.anyArmed
      · cases (s.endJob p Status.aborted).anyArmed <;> rfl
      · rw [hlater ht]
        rfl
    refine h.frame.trans ?_
    rw [hen, hmove.frame]

theorem State.aborted_foldl {l : List Nat} {s : State} (hpos : ∀ p ∈ l, 1 ≤ p) (hnodup : l.Nodup) :
    State.Aborted l s (l.foldl State.abortJob s) := by
  induction l generalizing s with
  | nil => exact .nil s
  | cons p l ih =>
    obtain ⟨hnot, hnodup⟩ := List.nodup_cons.mp hnodup
    have hrest := ih (s := s.abortJob p) (fun q hq => hpos q (List.mem_cons_of_mem _ hq)) hnodup
    rw [List.foldl_cons]
    cases hp : (s.job p).enabled
    · rw [State.abortJob_of_not_enabled hp] at hrest ⊢
      exact hrest.cons_of_not_enabled hp
    · rw [State.abortJob_of_enabled hp] at hrest ⊢
      exact .cons_of_enabled (hpos p List.mem_cons_self) hnot hp hrest

/-! ### ABORT_ALL_PIPES (rule R360) -/

theorem Config.legal_nPipes {c : Config} (h : c.legal = true) : c.nPipes ≤ 255 := by
  simp only [Config.legal, Bool.and_eq_true, decide_eq_true_eq] at h
  omega

theorem Config.dataPipes_nodup (c : Config) : c.dataPipes.Nodup := List.nodup_range'

theorem exec_abortAllPipes {s : State} (hfg : s.fg = []) :
    exec .abortAllPipes s = run burst (s.setFg (abortProg s.cfg)) := if_pos hfg

/-- With a job armed or without, ABORT_ALL_PIPES runs to its end. -/
theorem exec_abortAllPipes_of_quiet {s : State} (hquiet : Quiet s) (hlegal : s.cfg.legal = true) :
    exec .abortAllPipes s = .next (s.cfg.dataPipes.foldl State.abortJob s) := by
  obtain ⟨hfg, hin, hplan⟩ := hquiet
  have haborted := State.aborted_foldl (s := s) (fun p hp => (Config.mem_dataPipes.mp hp).1) (Config.dataPipes_nodup s.cfg)
  have hdone : (s.cfg.dataPipes.foldl State.abortJob s).fg = [] := (congrArg State.fg haborted.frame).trans hfg
  have hrun := RunsTo.abortJobs (rest := []) s.cfg.dataPipes (State.calm_nil hin) hplan
  rw [List.append_nil, State.setFg_self hdone] at hrun
  have hlen : s.cfg.dataPipes.length ≤ 255 := by
    have := Config.legal_nPipes hlegal
    rw [Config.dataPipes, List.length_range']
    omega
  exact (exec_abortAllPipes hfg).trans (hrun.run_eq (by simp only [burst]; omega) hdone)

/-- With no job armed every test fails. -/
theorem exec_abortAllPipes_of_idle {s : State} (hquiet : Quiet s) (hlegal : s.cfg.legal = true)
    (hidle : s.anyArmed = false) : exec .abortAllPipes s = .next s := by
  obtain ⟨hfg, hin, -⟩ := hquiet
  have hrun := RunsTo.abort (rest := []) (State.calm_nil hin) hidle
  have hlen := Config.legal_nPipes hlegal
  rw [List.append_nil, State.setFg_self hfg] at hrun
  exact (exec_abortAllPipes hfg).trans (hrun.run_eq (by simp only [burst]; omega) hfg)

/-- Settles O50: the armed jobs one after another; with none armed every test fails. -/
theorem abortEveryJob : Obligations.AbortEveryJob := by
  intro s hquiet hlegal hjobs
  have haborted := State.aborted_foldl (s := s) (fun p hp => (Config.mem_dataPipes.mp hp).1) (Config.dataPipes_nodup s.cfg)
  have hexec := exec_abortAllPipes_of_quiet hquiet hlegal
  generalize s.cfg.dataPipes.foldl State.abortJob s = t at haborted hexec
  have hnone : t.anyArmed = false := by
    refine Bool.eq_false_iff.mpr fun harmed => ?_
    obtain ⟨q, hpos, hq⟩ := State.anyArmed_iff.mp harmed
    obtain ⟨hnot, hq⟩ := haborted.enabled hq
    exact hnot (State.mem_dataPipes_of_enabled hjobs hpos hq)
  have hlast : s.en.released (t.anyArmed || !s.anyArmed) = { s.en with sofie := sofieAfter s } := by
    rw [hnone, sofieAfter]
    cases s.anyArmed <;> rfl
  have hframe := haborted.frame
  rw [hlast] at hframe
  refine ⟨exec_abortAllPipes_of_idle hquiet hlegal, t, hexec, haborted.issued, hnone, fun p hpos hlt => ?_,
    fun p => ?_, hframe⟩
  · have hjob := haborted.job p
    simp only [Config.mem_dataPipes, hpos, hlt, true_and] at hjob
    exact hjob
  · simpa only [Config.mem_dataPipes, and_assoc] using haborted.pipe p

end Sys2Proof.Machine
end

section
/-! PROOFS. The family `45_queries.md`: the register queries (rule R390 to rule R394) and the interface queries (rule R395
to rule R399). -/

namespace Sys2Proof.Machine

/-! ### The register queries -/

/-- IS_HOST_SUSPENDED tests one state or the other (rule R391). -/
theorem exec_isHostSuspended (s : State) : exec .isHostSuspended s =
    .next (s.setResBool (decide (s.ds = .suspended) || decide (s.ds = .waitResume))) := by
  rw [← Bool.decide_or]
  rfl

/-- Settles O8: each query is one write of its result register, by `State.setResBool` or `State.setResVal`. -/
theorem registerQueries : Obligations.RegisterQueries := fun s =>
  ⟨rfl, exec_isHostSuspended s, rfl, rfl, rfl⟩

/-! ### The interface queries: one shared query, answered when its index names an interface -/

section
variable {s : State} {i e : BitVec 8}

theorem queryIface_of_lt (f : Iface → Byte) (hi : i.toNat < s.nsi) :
    queryIface i f s = .next (s.setResVal (0#8 ++ f (s.iface i.toNat))) := by
  rw [queryIface, if_pos hi, setWidth_byte]

theorem queryIface_of_le (f : Iface → Byte) (hi : s.nsi ≤ i.toNat) : queryIface i f s = .refused .queryIndex :=
  if_neg (Nat.not_lt.mpr hi)

theorem exec_interfaceClass : exec (.interfaceClass i) s = queryIface i Iface.cls s := rfl

theorem exec_interfaceSubclass : exec (.interfaceSubclass i) s = queryIface i Iface.subclass s := rfl

theorem exec_interfaceProtocol : exec (.interfaceProtocol i) s = queryIface i Iface.protocol s := rfl

/-- With its endpoint index in range, INTERFACE_PIPE leaves the interface index to the shared query (rule R398). -/
theorem exec_interfacePipe_of_lt (he : e.toNat < (s.iface i.toNat).nbEp) :
    exec (.interfacePipe i e) s = queryIface i (fun f => f.pipe.getD e.toNat noPipe) s := if_pos he

theorem exec_interfacePipe_of_le (he : (s.iface i.toNat).nbEp ≤ e.toNat) :
    exec (.interfacePipe i e) s = .refused .queryIndex := if_neg (Nat.not_lt.mpr he)

/-- Where there is no interface `i`, the endpoint index does not matter. -/
theorem exec_interfacePipe_of_nsi_le (hi : s.nsi ≤ i.toNat) : exec (.interfacePipe i e) s = .refused .queryIndex := by
  rcases Nat.lt_or_ge e.toNat (s.iface i.toNat).nbEp with he | he
  · rw [exec_interfacePipe_of_lt he, queryIface_of_le _ hi]
  · exact exec_interfacePipe_of_le he

end

/-- Settles O9: each is the shared query of an interface that exists, at its own field. -/
theorem interfaceQueries : Obligations.InterfaceQueries := by
  intro s i e hi
  rw [exec_interfaceClass, exec_interfaceSubclass, exec_interfaceProtocol]
  refine ⟨queryIface_of_lt _ hi, queryIface_of_lt _ hi, queryIface_of_lt _ hi, fun he => ?_⟩
  rw [exec_interfacePipe_of_lt he]
  exact queryIface_of_lt _ hi

/-- Settles O10: the shared query refuses an interface that does not exist, INTERFACE_PIPE also an endpoint index that
the interface does not have. -/
theorem queriesOutOfRange : Obligations.QueriesOutOfRange := by
  intro s i e
  rw [exec_interfaceClass, exec_interfaceSubclass, exec_interfaceProtocol]
  exact ⟨fun hi => ⟨queryIface_of_le _ hi, queryIface_of_le _ hi, queryIface_of_le _ hi, exec_interfacePipe_of_nsi_le hi⟩,
    exec_interfacePipe_of_le⟩

end Sys2Proof.Machine
end

section
/-! PROOFS. The family `60_exceptions.md`: the interrupt entries (rule R421 to rule R425) and the order in which the
sequencer presents them (rule R430). -/

namespace Sys2Proof.Machine

/-! ### EV_WAKEUP (rule R425) -/

/-- Settles O53: the entry is one flag and one HAL action. -/
theorem wakeupEntry : Obligations.WakeupEntry := fun _ => rfl

/-! ### EV_SOF (rule R421) -/

theorem exec_evSof (s : State) : exec .evSof s = .next (evSofBody s) := rfl

theorem Job.countSof_eq (j : Job) : j.countSof =
    if j.enabled = true ∧ j.timeoutCnt < 0xFFFF then { j with timeoutCnt := j.timeoutCnt + 1 } else j := by
  simp only [Job.countSof, Bool.and_eq_true, decide_eq_true_eq]

/-- A start of frame counts for every job but entry 0, which is none. -/
theorem countJobs_getD (l : List Job) (p : Nat) : (countJobs l).getD p Job.unarmed =
    if 1 ≤ p then (l.getD p Job.unarmed).countSof else l.getD p Job.unarmed := by
  cases l with
  | nil => simp [countJobs, Job.countSof, Job.unarmed]
  | cons j rest =>
    cases p with
    | zero => rfl
    | succ p =>
      rw [if_pos (Nat.le_add_left 1 p)]
      exact List.getD_map rest Job.unarmed Job.countSof

theorem evSofBody_cnt (s : State) : (evSofBody s).cnt =
    { s.cnt with tmo := if s.en.sofie = true ∧ s.cnt.tmo < 0xFFFF then s.cnt.tmo + 1 else s.cnt.tmo } := by
  simp only [evSofBody, State.setJobs_cnt, State.setCnt_cnt, Bool.and_eq_true, decide_eq_true_eq]
  split <;> rfl

theorem evSofBody_job (s : State) (p : Nat) : (evSofBody s).job p =
    if s.en.sofie = true ∧ 1 ≤ p then (s.job p).countSof else s.job p := by
  cases hie : s.en.sofie
  · simp [evSofBody, hie, State.job]
  · have hcounted : (evSofBody s).job p = (countJobs s.jobs).getD p Job.unarmed := by
      simp only [evSofBody, hie, if_true, State.job, State.setJobs_jobs]
    rw [hcounted, countJobs_getD]
    simp only [true_and, State.job]

/-- Settles O51: the counters move only while `SOFIE` is 1. -/
theorem sofBookkeeping : Obligations.SofBookkeeping := by
  intro s
  refine ⟨_, exec_evSof s, evSofBody_cnt s, fun p => ?_, rfl⟩
  simp only [evSofBody_job, Job.countSof_eq, ← ite_and, and_assoc]

/-! ### The order of the sources (rule R430) -/

section
variable {s : State}

theorem State.pendingSource_of_vbusError (h : s.hal.vbusError = true) : s.pendingSource = some .vbusError := if_pos h

theorem State.pendingSource_of_disc (hvbus : s.hal.vbusError = false) (h : (s.hal.disc && s.en.discIe) = true) :
    s.pendingSource = some .disconnect := by
  simp [State.pendingSource, hvbus, h]

theorem State.pendingSource_of_roleChange (hvbus : s.hal.vbusError = false)
    (hdisc : (s.hal.disc && s.en.discIe) = false) (h : s.hal.roleChange = true) :
    s.pendingSource = some .roleChange := by
  simp [State.pendingSource, hvbus, hdisc, h]

theorem State.pendingSource_of_wakeup (hvbus : s.hal.vbusError = false)
    (hdisc : (s.hal.disc && s.en.discIe) = false) (hrole : s.hal.roleChange = false)
    (h : (s.hal.wakeup && s.en.wakeie) = true) : s.pendingSource = some .wakeup := by
  simp [State.pendingSource, hvbus, hdisc, hrole, h]

/-- No port source is pending: what is left are the sources of a running bus. -/
theorem State.pendingSource_of_bus (hvbus : s.hal.vbusError = false)
    (hdisc : (s.hal.disc && s.en.discIe) = false) (hrole : s.hal.roleChange = false)
    (hwake : (s.hal.wakeup && s.en.wakeie) = false) :
    s.pendingSource = if s.en.sofgen = false then none else if s.hal.sof = true then some .sof
      else (s.cfg.dataPipes.find? fun p => (s.halPipe p).interrupts).map .pipe := by
  simp [State.pendingSource, hvbus, hdisc, hrole, hwake]

end

/-- The first data pipe that interrupts is the lowest. -/
theorem State.find_interrupting_eq_some (s : State) (p : Nat) :
    s.cfg.dataPipes.find? (fun q => (s.halPipe q).interrupts) = some p ↔
      1 ≤ p ∧ p < s.cfg.nPipes ∧ (s.halPipe p).interrupts = true ∧
        ∀ q, 1 ≤ q → q < p → (s.halPipe q).interrupts = false := by
  have hfirst := List.find?_range'_eq_some (s := 1) (n := s.cfg.nPipes - 1) (i := p)
    (p := fun q => (s.halPipe q).interrupts)
  rw [← Config.dataPipes, Config.mem_dataPipes] at hfirst
  simp only [hfirst, Bool.not_eq_true']
  tauto

theorem State.find_interrupting_eq_none (s : State) :
    s.cfg.dataPipes.find? (fun q => (s.halPipe q).interrupts) = none ↔
      ∀ p, 1 ≤ p → p < s.cfg.nPipes → (s.halPipe p).interrupts = false := by
  simp only [List.find?_eq_none, Config.mem_dataPipes, and_imp, Bool.not_eq_true]

/-- Settles O54: one test after another, then the first data pipe that interrupts. -/
theorem sequencerOrder : Obligations.SequencerOrder := by
  intro s
  refine ⟨State.pendingSource_of_vbusError, fun hvbus => ⟨State.pendingSource_of_disc hvbus,
    State.pendingSource_of_roleChange hvbus, State.pendingSource_of_wakeup hvbus, fun hdisc hrole hwake => ?_⟩⟩
  rw [State.pendingSource_of_bus hvbus hdisc hrole hwake]
  refine ⟨fun hgen => if_pos hgen, fun hgen hsof => ?_, fun hgen hsof => ⟨fun p => ?_, ?_⟩⟩
  · simp [hgen, hsof]
  · simpa [hgen, hsof] using s.find_interrupting_eq_some p
  · simpa [hgen, hsof, -List.find?_eq_none] using s.find_interrupting_eq_none

/-! ### Every job is ended at once (rule R360, rule R422) -/

/-- In interrupt context the job of pipe `p`, if it is armed, ends at once. -/
theorem completeWith_aborted {s : State} (hplan : s.plan = []) (p : Nat) :
    completeWith notify p Status.aborted s = .next (s.abortJob p) := by
  cases h : (s.job p).enabled
  · rw [State.abortJob_of_not_enabled h]
    exact if_neg (by simp [h])
  · rw [State.abortJob_of_enabled h]
    exact (PumpMove.refl p s).complete _ hplan h

theorem chain_completeWith_aborted {s : State} (l : List Nat) (hplan : s.plan = []) :
    chain (fun p => completeWith notify p Status.aborted) l s = .next (l.foldl State.abortJob s) := by
  induction l generalizing s with
  | nil => rfl
  | cons p l ih =>
    rw [chain, completeWith_aborted hplan]
    exact ih ((s.abortJob_plan p).trans hplan)

/-- ABORT_ALL_PIPES has run (rule R360). -/
def State.allAborted (s : State) : State := s.cfg.dataPipes.foldl State.abortJob s

theorem abortWith_notify {s : State} (hplan : s.plan = []) : abortWith notify s = .next s.allAborted :=
  chain_completeWith_aborted _ hplan

theorem State.aborted_allAborted (s : State) : State.Aborted s.cfg.dataPipes s s.allAborted :=
  State.aborted_foldl (fun _ hp => (Config.mem_dataPipes.mp hp).1) (Config.dataPipes_nodup s.cfg)

section
variable {s t : State}

/-- With every data pipe aborted no job is armed, and `SOFIE` is restored if one was (rule R352). -/
theorem State.Aborted.not_anyArmed (h : State.Aborted s.cfg.dataPipes s t) (hjobs : s.jobs.length = s.cfg.nPipes) :
    t.anyArmed = false := by
  refine Bool.eq_false_iff.mpr fun harmed => ?_
  obtain ⟨q, hpos, hq⟩ := State.anyArmed_iff.mp harmed
  obtain ⟨hnot, hq⟩ := h.enabled hq
  exact hnot (State.mem_dataPipes_of_enabled hjobs hpos hq)

theorem State.Aborted.frame_dataPipes (h : State.Aborted s.cfg.dataPipes s t) (hjobs : s.jobs.length = s.cfg.nPipes) :
    t = { s with
      en := { s.en with sofie := sofieAfter s }
      jobs := t.jobs, pipes := t.pipes, hal := t.hal, trace := t.trace } := by
  have hen : s.en.released (t.anyArmed || !s.anyArmed) = { s.en with sofie := sofieAfter s } := by
    rw [h.not_anyArmed hjobs, sofieAfter]
    cases s.anyArmed <;> rfl
  rw [← hen]
  exact h.frame

theorem State.Aborted.issued_dataPipes (h : State.Aborted s.cfg.dataPipes s t) : Issued s t (abortOutputs s) := h.issued

theorem State.Aborted.cfg {l : List Nat} (h : State.Aborted l s t) : t.cfg = s.cfg := (congrArg State.cfg h.frame :)

/-- The end of a job leaves its pipe allocated. -/
theorem State.Aborted.alloc {l : List Nat} (h : State.Aborted l s t) (p : Nat) :
    (t.pipe p).alloc = (s.pipe p).alloc := by
  rw [h.pipe]
  split <;> rfl

end

/-! ### Every pipe is freed (rule R422) -/

theorem State.setPipe_setPipe (s : State) (p : Nat) (r r' : Pipe) : (s.setPipe p r).setPipe p r' = s.setPipe p r' :=
  congrArg s.setPipes (tableSet_tableSet ..)

/-- `Disconnect` frees a pipe as CHECK_CLASS does, with one write of the entry for the two. -/
theorem State.freeIfAlloc_eq (s : State) (p : Nat) : s.freeIfAlloc p = s.freePipe p := by
  have hfree : acts (freeActs p) s = (s.doHal (.disablePipe p)).setPipe p (s.pipe p).freed := by
    simp only [freeActs, acts, act, State.setPipe_pipe, State.setPipe_setPipe, if_true, State.doHal_pipe]
    rfl
  rw [State.freePipe, State.guarded, hfree, State.freeIfAlloc]

theorem State.foldl_freeIfAlloc (l : List Nat) (s : State) : l.foldl State.freeIfAlloc s = s.freePipes l := by
  induction l generalizing s with
  | nil => rfl
  | cons p l ih => rw [List.foldl_cons, State.freeIfAlloc_eq, ih, State.freePipes]

theorem State.freePipe_frame (p : Nat) (s : State) : s.freePipe p =
    { s with pipes := (s.freePipe p).pipes, hal := (s.freePipe p).hal, trace := (s.freePipe p).trace } := by
  unfold State.freePipe State.guarded
  split <;> rfl

theorem State.freePipes_frame (l : List Nat) (s : State) : s.freePipes l =
    { s with pipes := (s.freePipes l).pipes, hal := (s.freePipes l).hal, trace := (s.freePipes l).trace } := by
  induction l generalizing s with
  | nil => rfl
  | cons p l ih =>
    have hfirst := State.freePipe_frame p s
    have hrest := ih (s.freePipe p)
    rw [State.freePipes]
    generalize s.freePipe p = u at hfirst hrest ⊢
    generalize u.freePipes l = t at hrest ⊢
    rw [hrest, hfirst]

theorem State.freePipes_pipe (l : List Nat) (q : Nat) (s : State) :
    (s.freePipes l).pipe q = if q ∈ l ∧ (s.pipe q).alloc = true then (s.pipe q).freed else s.pipe q := by
  induction l generalizing s with
  | nil => simp [State.freePipes]
  | cons p l ih =>
    rw [State.freePipes, ih, State.freePipe_pipe]
    by_cases hq : q = p
    · cases halloc : (s.pipe p).alloc <;> simp [hq, halloc, Pipe.freed]
    · simp [hq]

/-- What freeing the pipes `l` issues: one action for each that is allocated. -/
def State.freeOutputs (s : State) (l : List Nat) : List Output :=
  l.flatMap fun p => if (s.pipe p).alloc then [.hal (.disablePipe p)] else []

theorem State.freeOutputs_eq (s : State) (l : List Nat) :
    s.freeOutputs l = (l.filter fun p => (s.pipe p).alloc).map fun p => Output.hal (.disablePipe p) := by
  induction l with
  | nil => rfl
  | cons p l ih =>
    have hcons : s.freeOutputs (p :: l) =
        (if (s.pipe p).alloc then [.hal (.disablePipe p)] else []) ++ s.freeOutputs l := List.flatMap_cons
    rw [hcons, ih, List.filter_cons]
    split <;> rfl

/-! ### EV_DISCONNECT, EV_ROLE_CHANGE, EV_VBUS_ERROR (rule R422 to rule R424) -/

/-- `EMERG` is set and the cause acknowledged: the start of `Disconnect` (rule R422). -/
def State.emergency (cause : Cause) (s : State) : State :=
  (s.setFlags { s.flags with emerg := true }).doHal cause.ack

/-- The end of `Disconnect`, after every job has ended: no interface, every pipe freed, and `DS` (rule R422). -/
def State.detached (cause : Cause) (s : State) : State :=
  ((s.setNsi 0).freePipes (List.range s.cfg.nPipes)).setDs (disconnectState s.cfg cause)

section
variable (cause : Cause) (s : State)

@[simp] theorem State.emergency_cfg : (s.emergency cause).cfg = s.cfg := State.doHal_cfg ..

@[simp] theorem State.emergency_plan : (s.emergency cause).plan = s.plan := State.doHal_plan ..

@[simp] theorem State.emergency_en : (s.emergency cause).en = s.en := State.doHal_en ..

@[simp] theorem State.emergency_jobs : (s.emergency cause).jobs = s.jobs := State.doHal_jobs ..

@[simp] theorem State.emergency_job (p : Nat) : (s.emergency cause).job p = s.job p := State.doHal_job ..

@[simp] theorem State.emergency_pipe (p : Nat) : (s.emergency cause).pipe p = s.pipe p := State.doHal_pipe ..

@[simp] theorem State.emergency_anyArmed : (s.emergency cause).anyArmed = s.anyArmed := State.doHal_anyArmed ..

theorem State.emergency_issued : Issued s (s.emergency cause) [.hal cause.ack] := State.doHal_trace ..

theorem State.emergency_frame : s.emergency cause =
    { s with
      flags := { s.flags with emerg := true }
      hal := (s.emergency cause).hal, trace := (s.emergency cause).trace } := by
  rw [State.emergency, State.doHal_trace]
  exact State.doHal_eq ..

theorem State.emergency_abortOutputs : abortOutputs (s.emergency cause) = abortOutputs s := by
  simp only [abortOutputs, State.emergency_cfg, State.emergency_job]

theorem State.emergency_sofieAfter : sofieAfter (s.emergency cause) = sofieAfter s := by
  simp only [sofieAfter, State.emergency_anyArmed, State.emergency_en]

theorem State.detached_frame : s.detached cause =
    { s with
      ds := disconnectState s.cfg cause, nsi := 0
      pipes := (s.detached cause).pipes, hal := (s.detached cause).hal, trace := (s.detached cause).trace } := by
  have hfreed := (s.setNsi 0).freePipes_frame (List.range s.cfg.nPipes)
  unfold State.detached
  generalize (s.setNsi 0).freePipes (List.range s.cfg.nPipes) = t at hfreed ⊢
  rw [hfreed]
  rfl

theorem State.detached_job (p : Nat) : (s.detached cause).job p = s.job p :=
  (congrArg (State.job · p) (s.detached_frame cause) :)

theorem State.detached_pipe (p : Nat) : (s.detached cause).pipe p =
    if p ∈ List.range s.cfg.nPipes ∧ (s.pipe p).alloc = true then (s.pipe p).freed else s.pipe p :=
  State.freePipes_pipe ..

theorem State.detached_issued : Issued s (s.detached cause) (s.freeOutputs (List.range s.cfg.nPipes)) := by
  rw [State.freeOutputs_eq]
  exact State.freePipes_issued List.nodup_range (s.setNsi 0)

end

/-- `Disconnect` with callbacks that the application does not answer: emergency, abort, detachment. -/
theorem disconnect_of_no_plan {s : State} (cause : Cause) (hplan : s.plan = []) :
    disconnect cause s = .next ((s.emergency cause).allAborted.detached cause) := by
  have habort := abortWith_notify ((s.emergency_plan cause).trans hplan)
  rw [disconnect, ← State.emergency, habort]
  simp only [andThen, State.foldl_freeIfAlloc]
  have hcfg (u : State) : ((u.setNsi 0).freePipes (List.range u.cfg.nPipes)).cfg = u.cfg :=
    (congrArg State.cfg ((u.setNsi 0).freePipes_frame _) :)
  rw [hcfg, State.detached]

theorem disconnectState_vbusError (c : Config) :
    disconnectState c .vbusError = if c.hasVbusLow then .vbusLow else .unattached := by
  simp only [disconnectState, true_and]

/-- Settles O52: each entry is `Disconnect` of its own cause. -/
theorem disconnectEntries : Obligations.DisconnectEntries := by
  intro s hplan hjobs _ after
  have hafter (i : Instr) (cause : Cause) (hexec : exec i s = disconnect cause s) :
      after i cause.ack (disconnectState s.cfg cause) := by
    have hnext := hexec.trans (disconnect_of_no_plan cause hplan)
    have haborted := (s.emergency cause).aborted_allAborted
    have hframe := haborted.frame_dataPipes (by simpa using hjobs)
    have hnone := haborted.not_anyArmed (by simpa using hjobs)
    have hcfg := haborted.cfg.trans (s.emergency_cfg cause)
    have halloc (p : Nat) := (haborted.alloc p).trans (congrArg Pipe.alloc (s.emergency_pipe cause p))
    have hissued := ((s.emergency_issued cause).trans haborted.issued_dataPipes).trans (State.detached_issued cause _)
    generalize (s.emergency cause).allAborted = u at *
    refine ⟨_, hnext, ?_, fun p hpos _ => ?_, fun p hlt => ?_, ?_, ?_⟩
    · rw [State.detached_frame, hcfg]
    · rw [State.detached_job]
      exact State.job_not_enabled hnone hpos
    · rw [State.detached_pipe, hcfg, halloc]
      cases h : (s.pipe p).alloc <;> simp [hlt, halloc, h, Pipe.freed]
    · rw [State.emergency_abortOutputs, hcfg] at hissued
      simpa only [State.freeOutputs, halloc] using hissued
    · rw [State.emergency_sofieAfter, State.emergency_en, State.emergency_frame] at hframe
      have hend := u.detached_frame cause
      generalize u.detached cause = t at hend ⊢
      rw [hend, hframe]
  exact ⟨hafter _ .disconnect rfl, hafter _ .roleChange rfl,
    disconnectState_vbusError s.cfg ▸ hafter _ .vbusError rfl⟩

end Sys2Proof.Machine
end

section
/-! PROOFS. The family `70_reset_and_hazards.md`: a control transfer after an emergency (rule R480). -/

namespace Sys2Proof.Machine

/-! ### A transfer after an emergency (rule R480, rule R212, rule R224) -/

theorem acts_ctEntryActs_eq (r : Setup) (b : CtBuf) (s : State) :
    acts (ctEntryActs r b) s = (s.ctEntered r).setCt ⟨.waitSof, 0, 0, b⟩ := rfl

theorem hals_append (l l' : List HalAction) : hals (l ++ l') = hals l ++ hals l' := List.map_append

section
variable (s : State)

theorem State.ackErrors_stall :
    ((s.doHal (.ackErrors Config.pControl)).halPipe Config.pControl).stall = (s.halPipe Config.pControl).stall := by
  rw [State.doHal, halEffect, State.onLive_halPipe]
  split <;> rfl

theorem State.guarded_hal_issued (b : Bool) (a : HalAction) :
    Issued s (s.guarded b [.hal a]) (hals (if b then [a] else [])) := by
  cases b
  · rfl
  · exact State.doHal_trace a s

theorem State.guarded_ackErrors_stall (b : Bool) :
    ((s.guarded b [.hal (.ackErrors Config.pControl)]).halPipe Config.pControl).stall =
      (s.halPipe Config.pControl).stall := by
  cases b
  · rfl
  · exact s.ackErrors_stall

/-- What is pending on the control pipe is acknowledged, whether or not the pipe is still enabled. -/
theorem State.ctAcked_issued : Issued s s.ctAcked (hals (s.halPipe Config.pControl).acks) := by
  have herrors := s.guarded_hal_issued (decide ((s.halPipe Config.pControl).error ≠ 0#5)) (.ackErrors Config.pControl)
  have hacks := herrors.trans (State.guarded_hal_issued _ (s.halPipe Config.pControl).stall (.ackStall Config.pControl))
  rw [State.ctAcked, State.guarded_ackErrors_stall, HalPipe.acks, hals_append]
  simpa only [decide_eq_true_eq] using hacks

/-- The exit of a failed transfer acknowledges what is pending and resets the pipe, and issues nothing else. -/
theorem State.ctFailed_issued :
    Issued s s.ctFailed (hals ((s.halPipe Config.pControl).acks ++ [.resetPipe Config.pControl])) := by
  have hreset : Issued s.ctAcked s.ctFailed (hals [.resetPipe Config.pControl]) := by
    simp [Issued, hals, State.ctFailed, State.ctLatched_eq, acts, act]
  rw [hals_append]
  exact s.ctAcked_issued.trans hreset

end

/-- The state in which a transfer with the request `r` into `b` leaves its first wait after an emergency. -/
def State.ctTimedOut (r : Setup) (b : CtBuf) (s : State) : State :=
  ((s.ctEntered r).setCt ⟨.waitSof, 0, 0, b⟩).setSt Status.timeout

/-- TRANSFER_CONTROL after an emergency: the entry, the wait that ends at once, the exit, the result. -/
theorem exec_transferControl_of_emergency {s : State} {b : BitVec 8} (hb : b = 0#8 ∨ b = 1#8) (hq : Quiet s)
    (hemerg : s.flags.emerg = true) (hcap : s.request.wLength.toNat ≤ (bufferOperand b s.args).capacity s.cfg) :
    exec (.transferControl b) s =
      .next ((act .resStatus (s.ctTimedOut s.request (bufferOperand b s.args)).ctFailed).setFg []) := by
  obtain ⟨hfg, hin, -⟩ := hq
  have hfail := RunsTo.ctEmergency (rest := [.act .resStatus]) (State.calm_nil hin) hemerg hcap
  rw [acts_ctEntryActs_eq] at hfail
  have hcalm : (s.ctTimedOut s.request (bufferOperand b s.args)).ctFailed.calm = true :=
    State.calm_nil ((State.ctFailed_inputs _).trans hin)
  rw [exec_transferControl hb hfg]
  exact (hfail.trans (.straight (rest := []) [.resStatus] hcalm)).run_eq (by decide) rfl

/-- Settles O32: the first wait raises `Timeout`, so the only actions are those of the exit. -/
theorem controlAfterEmergency : Obligations.ControlAfterEmergency := by
  intro s b hb hq hemerg hcap
  have hexec := exec_transferControl_of_emergency hb hq hemerg hcap
  have hissued := (s.ctTimedOut s.request (bufferOperand b s.args)).ctFailed_issued
  obtain ⟨hal, trace, hframe⟩ := (s.ctTimedOut s.request (bufferOperand b s.args)).ctFailed_eq
  refine ⟨_, hexec, rfl, ?_, ?_, ?frozen, ?cacheLen, hissued, ?_, ?_, ?_, .of_eq ?_ ?_⟩
  case frozen =>
    rw [hframe]
    exact congrArg Pipe.frozen (State.ctFrozen_pipe true s 0)
  case cacheLen =>
    rw [hframe]
    simp only [← bufferOperand_eq_cache (a := s.args), and_comm]
    rfl
  all_goals
    rw [hframe]
    rfl

end Sys2Proof.Machine
end

section
/-! PROOFS. The family `70_reset_and_hazards.md`: no step changes the parameters (rule R465 (1)). -/

namespace Sys2Proof.Machine

/-! ### Results with the parameters `c` -/

/-- If the outcome is a next state, its parameters are `c`. -/
def AnswersCfg (c : Config) : Host.Outcome State Fault Refusal → Prop
  | .next s => s.cfg = c
  | .fault _ => True
  | .refused _ => True

/-- If the micro-step ran or is pending, the parameters are `c`. -/
def MicroResult.HasCfg (c : Config) : MicroResult → Prop
  | .ran s => s.cfg = c
  | .pending s => s.cfg = c
  | .fault _ => True
  | .refused _ => True

section
variable {c : Config} {s : State}

@[simp] theorem answersCfg_next : AnswersCfg c (.next s) ↔ s.cfg = c := .rfl

theorem onlyIf_hasCfg (b : Bool) (ms : List Micro) : (onlyIf b ms s).HasCfg c ↔ s.cfg = c := by
  cases b <;> rfl

theorem MicroResult.ofOutcome_hasCfg {o : Host.Outcome State Fault Refusal} :
    (MicroResult.ofOutcome o).HasCfg c ↔ AnswersCfg c o := by
  cases o <;> rfl

theorem answersCfg_ite {P : Prop} [Decidable P] {o o' : Host.Outcome State Fault Refusal} (ho : AnswersCfg c o)
    (ho' : AnswersCfg c o') : AnswersCfg c (if P then o else o') := by
  split
  · exact ho
  · exact ho'

theorem MicroResult.hasCfg_ite {P : Prop} [Decidable P] {r r' : MicroResult} (hr : r.HasCfg c) (hr' : r'.HasCfg c) :
    (if P then r else r').HasCfg c := by
  split
  · exact hr
  · exact hr'

theorem answersCfg_andThen {o : Host.Outcome State Fault Refusal} {f : State → Host.Outcome State Fault Refusal}
    (ho : AnswersCfg c o) (hf : ∀ t, t.cfg = c → AnswersCfg c (f t)) : AnswersCfg c (andThen o f) := by
  cases o with
  | next t => exact hf t ho
  | fault r => trivial
  | refused r => trivial

theorem answersCfg_chain {f : Nat → State → Host.Outcome State Fault Refusal}
    (hf : ∀ p t, t.cfg = c → AnswersCfg c (f p t)) (l : List Nat) (h : s.cfg = c) : AnswersCfg c (chain f l s) := by
  induction l generalizing s with
  | nil => exact h
  | cons p ps ih => exact answersCfg_andThen (hf p s h) fun _ => ih

/-! ### The updates of the state -/

@[simp] theorem State.elapse_cfg (s : State) : s.elapse.cfg = s.cfg := by
  unfold State.elapse
  split <;> rfl

@[simp] theorem State.setHostBytes_cfg (b off : Nat) (l : List Byte) (s : State) :
    (State.setHostBytes b off l s).cfg = s.cfg := by
  induction l generalizing off s with
  | nil => rfl
  | cons v rest ih =>
    rw [State.setHostBytes, ih]
    split <;> rfl

@[simp] theorem State.raiseOn_cfg (p : Nat) (f : HalPipe → HalPipe) (s : State) : (s.raiseOn p f).cfg = s.cfg := by
  rw [State.raiseOn_eq, State.setHal_cfg]

@[simp] theorem State.armBody_cfg (p : Nat) (dirIn : Bool) (buf len cb : Nat) (s : State) :
    (s.armBody p dirIn buf len cb).cfg = s.cfg := rfl

@[simp] theorem State.arm_cfg (p : Nat) (dirIn : Bool) (s : State) : (s.arm p dirIn).cfg = s.cfg := by
  unfold State.arm
  split <;> simp

@[simp] theorem evWakeupBody_cfg (s : State) : (evWakeupBody s).cfg = s.cfg := State.doHal_cfg ..

@[simp] theorem State.freeIfAlloc_cfg (s : State) (p : Nat) : (s.freeIfAlloc p).cfg = s.cfg := by
  unfold State.freeIfAlloc
  split <;> simp

@[simp] theorem State.foldl_freeIfAlloc_cfg (l : List Nat) (s : State) : (l.foldl State.freeIfAlloc s).cfg = s.cfg := by
  induction l generalizing s with
  | nil => rfl
  | cons p l ih => rw [List.foldl_cons, ih, State.freeIfAlloc_cfg]

/-! ### The commands a notification may be answered with (rule R356, rule R440) -/

theorem queryIface_cfg (i : BitVec 8) (f : Iface → Byte) (h : s.cfg = c) : AnswersCfg c (queryIface i f s) :=
  answersCfg_ite h trivial

theorem execInterfacePipe_cfg (i e : BitVec 8) (h : s.cfg = c) : AnswersCfg c (execInterfacePipe i e s) :=
  answersCfg_ite (queryIface_cfg i _ h) trivial

theorem armNow_cfg (p : Nat) (dirIn : Bool) (h : s.cfg = c) : AnswersCfg c (armNow p dirIn s) := by
  unfold armNow
  split
  · trivial
  · exact (State.arm_cfg p dirIn s).trans h

section
variable {notify : Output → State → Host.Outcome State Fault Refusal}
  (hnotify : ∀ o t, t.cfg = c → AnswersCfg c (notify o t))
include hnotify

theorem completeWith_cfg (p : Nat) (st : Status) (h : s.cfg = c) : AnswersCfg c (completeWith notify p st s) :=
  answersCfg_ite (hnotify _ _ ((State.completeBody_cfg p st s).trans h)) h

theorem abortWith_cfg (h : s.cfg = c) : AnswersCfg c (abortWith notify s) :=
  answersCfg_chain (fun p _ => completeWith_cfg hnotify p Status.aborted) _ h

theorem runNested_cfg (i : Instr) (h : s.cfg = c) : AnswersCfg c (runNested notify i s) := by
  cases i
  case sendDataAsync p => exact armNow_cfg _ _ h
  case getDataAsync p => exact armNow_cfg _ _ h
  case abortAllPipes => exact abortWith_cfg hnotify h
  case interfaceClass i => exact queryIface_cfg i _ h
  case interfaceSubclass i => exact queryIface_cfg i _ h
  case interfaceProtocol i => exact queryIface_cfg i _ h
  case interfacePipe i e => exact execInterfacePipe_cfg i e h
  case suspend | resume | isHostReady | isHostSuspended | getVid | getPid | numSupportedInterfaces => exact h
  all_goals trivial

theorem nestedWith_cfg (n : NestedCmd) (h : s.cfg = c) : AnswersCfg c (nestedWith notify n s) := by
  unfold nestedWith
  split
  · trivial
  · exact runNested_cfg hnotify _ h

theorem answerWith_cfg (l : List NestedCmd) (h : s.cfg = c) : AnswersCfg c (answerWith notify l s) := by
  induction l generalizing s with
  | nil => exact h
  | cons n rest ih => exact answersCfg_andThen (nestedWith_cfg hnotify n h) fun _ => ih

end

theorem notifyUpTo_cfg (k : Nat) (o : Output) (h : s.cfg = c) : AnswersCfg c (notifyUpTo k o s) := by
  induction k generalizing o s with
  | zero => exact h
  | succ k ih =>
    unfold notifyUpTo
    split
    · exact h
    · exact answerWith_cfg (fun o _ => ih o) _ h

theorem notify_cfg (o : Output) (h : s.cfg = c) : AnswersCfg c (notify o s) := notifyUpTo_cfg _ o h

/-! ### The interrupt entries (rule R421 to rule R425, rule R345) -/

theorem complete_cfg (p : Nat) (st : Status) (h : s.cfg = c) : AnswersCfg c (complete p st s) :=
  completeWith_cfg (fun o _ => notify_cfg o) p st h

theorem disconnect_cfg (cause : Cause) (h : s.cfg = c) : AnswersCfg c (disconnect cause s) := by
  have habort : AnswersCfg c (abortWith notify ((s.setFlags { s.flags with emerg := true }).doHal cause.ack)) :=
    abortWith_cfg (fun o _ => notify_cfg o) (by simpa using h)
  exact answersCfg_andThen habort fun t ht => by simpa using ht

theorem outReadyEvent_cfg (p : Nat) (h : s.cfg = c) : AnswersCfg c (outReadyEvent p s) :=
  answersCfg_ite (complete_cfg p _ (by simpa using h)) (by simpa using h)

theorem inReadyEvent_cfg (p : Nat) (h : s.cfg = c) : AnswersCfg c (inReadyEvent p s) :=
  answersCfg_ite (complete_cfg p _ (by simpa using h)) (by simpa using h)

theorem nakEvent_cfg (p : Nat) (h : s.cfg = c) : AnswersCfg c (nakEvent p s) :=
  answersCfg_ite (complete_cfg p _ (by simpa using h)) (by simpa using h)

theorem pipeIsr_cfg (p : Nat) (h : s.cfg = c) : AnswersCfg c (pipeIsr p s) :=
  have hal (a : HalAction) : (s.doHal a).cfg = c := (State.doHal_cfg a s).trans h
  answersCfg_ite (hal _) <| answersCfg_ite (outReadyEvent_cfg p h) <| answersCfg_ite (inReadyEvent_cfg p h) <|
    answersCfg_ite (complete_cfg p _ (hal _)) <| answersCfg_ite (complete_cfg p _ (hal _)) <|
    answersCfg_ite (nakEvent_cfg p h) h

theorem enter_cfg (src : Source) (h : s.cfg = c) : AnswersCfg c (enter src s) := by
  cases src with
  | vbusError => exact disconnect_cfg _ h
  | disconnect => exact disconnect_cfg _ h
  | roleChange => exact disconnect_cfg _ h
  | wakeup => exact (evWakeupBody_cfg s).trans h
  | sof => exact h
  | pipe p => exact pipeIsr_cfg p h

theorem sequencer_cfg (h : s.cfg = c) : AnswersCfg c (sequencer s) := by
  unfold sequencer
  split
  · exact enter_cfg _ h
  · exact h

/-- An event of the environment keeps the parameters, the construction of the context too (rule R460). -/
theorem occur_cfg (e : Event) (h : s.cfg = c) : AnswersCfg c (occur e s) := by
  cases e
  case irq => exact sequencer_cfg h
  case setupAck | inPacket | outReady | stall | nak | pipeError => exact (State.raiseOn_cfg ..).trans h
  case hostWrite => exact answersCfg_ite trivial ((State.setHostBytes_cfg ..).trans h)
  case present | construct => exact answersCfg_ite h trivial
  case setTables => exact answersCfg_ite trivial h
  all_goals exact h

/-! ### The micro-steps -/

section
open MicroResult

theorem pollSof_cfg (m : Micro) (isExit : Micro → Bool) (h : s.cfg = c) : (pollSof m isExit s).HasCfg c :=
  hasCfg_ite h <| hasCfg_ite h h

theorem ctPoll_cfg (w : CtWaitFor) (h : s.cfg = c) : (ctPoll w s).HasCfg c :=
  hasCfg_ite h <| hasCfg_ite h <| hasCfg_ite h <| hasCfg_ite h <| hasCfg_ite h h

theorem spPoll_cfg (p : Nat) (dirIn : Bool) (h : s.cfg = c) : (spPoll p dirIn s).HasCfg c :=
  have hack : (s.doHal (.ackNak p)).cfg = c := (State.doHal_cfg _ s).trans h
  hasCfg_ite h <| hasCfg_ite h <| hasCfg_ite h <| hasCfg_ite h <| hasCfg_ite h <|
    hasCfg_ite (hasCfg_ite hack hack) h

theorem pollReset_cfg (who : ResetFor) (h : s.cfg = c) : (pollReset who s).HasCfg c := by
  refine hasCfg_ite h (hasCfg_ite ?_ h)
  cases who <;> exact h

theorem pollWindow_cfg (h : s.cfg = c) : (pollWindow s).HasCfg c := by
  refine hasCfg_ite h (hasCfg_ite h (hasCfg_ite ?_ h))
  change State.cfg (if _ then _ else _) = c
  split
  · exact (State.doHal_cfg ..).trans h
  · exact h

theorem pollResume_cfg (h : s.cfg = c) : (pollResume s).HasCfg c := hasCfg_ite h <| hasCfg_ite h h

theorem ctReadByte_cfg (k : Nat) (h : s.cfg = c) : (ctReadByte k s).HasCfg c := by
  have hpop : (s.fifoPop Config.pControl).cfg = c := (State.fifoPop_cfg _ s).trans h
  unfold ctReadByte
  split
  · exact hasCfg_ite trivial hpop
  · exact (act_cfg _ s).trans h
  · exact hpop

theorem ctWriteByte_cfg (k : Nat) (h : s.cfg = c) : (ctWriteByte k s).HasCfg c := by
  unfold ctWriteByte
  split
  · exact hasCfg_ite trivial ((State.doHal_cfg _ s).trans h)
  · exact (act_cfg _ s).trans h
  · exact h

theorem ifacePending_cfg (h : s.cfg = c) : (ifacePending s).HasCfg c := by
  unfold ifacePending
  split
  · exact (onlyIf_hasCfg ..).mpr h
  · exact h

theorem endpoint_cfg (len : Nat) (h : s.cfg = c) : (endpoint len s).HasCfg c := by
  unfold endpoint
  split
  · exact (onlyIf_hasCfg ..).mpr h
  · exact h

theorem parseWalk_cfg (total : Nat) (who : ParseFor) (h : s.cfg = c) : (parseWalk total who s).HasCfg c :=
  hasCfg_ite (hasCfg_ite h h) h

theorem parseReturn_cfg (who : ParseFor) (h : s.cfg = c) : (parseReturn who s).HasCfg c := by
  cases who with
  | command => exact h
  | tick cfg => exact hasCfg_ite h h

theorem notifyFg_cfg (o : Output) (h : s.cfg = c) : (notifyFg o s).HasCfg c := by
  unfold notifyFg
  split <;> exact h

theorem startArm_cfg (p : Nat) (dirIn : Bool) (h : s.cfg = c) : (startArm p dirIn s).HasCfg c := by
  unfold startArm
  split
  · trivial
  · exact h

theorem nestedFg_cfg (n : NestedCmd) (h : s.cfg = c) : (nestedFg n s).HasCfg c := by
  unfold nestedFg
  split
  · trivial
  · exact startArm_cfg _ _ h
  · exact startArm_cfg _ _ h
  · exact h
  · exact ofOutcome_hasCfg.mpr (runNested_cfg (fun o _ => notify_cfg o) _ h)

theorem completeFg_cfg (p : Nat) (st : Status) (h : s.cfg = c) : (completeFg p st s).HasCfg c :=
  hasCfg_ite ((State.completeBody_cfg p st s).trans h) h

/-- A micro-step keeps the parameters: it runs one of the pieces above, or writes a register, or only pushes what comes
next. -/
theorem micro_cfg (m : Micro) (h : s.cfg = c) : (micro m s).HasCfg c := by
  cases m
  case act a => exact (act_cfg a s).trans h
  case disconnect cause => exact ofOutcome_hasCfg.mpr (disconnect_cfg cause h)
  case pollReset who => exact pollReset_cfg who h
  case pollWindow => exact pollWindow_cfg h
  case pollResume => exact pollResume_cfg h
  case ctPollSof | spPollSof => exact pollSof_cfg _ _ h
  case ctPoll w => exact ctPoll_cfg w h
  case ctReadByte k => exact ctReadByte_cfg k h
  case ctWriteByte k => exact ctWriteByte_cfg k h
  case spPoll p dirIn => exact spPoll_cfg p dirIn h
  case complete p st => exact completeFg_cfg p st h
  case callback | hook => exact notifyFg_cfg _ h
  case nested n => exact nestedFg_cfg n h
  case parseWalk total who => exact parseWalk_cfg total who h
  case ifacePending => exact ifacePending_cfg h
  case endpoint len => exact endpoint_cfg len h
  case parseReturn who => exact parseReturn_cfg who h
  -- a refusal or a fault under a test
  case ctCheck | parseTotal => exact hasCfg_ite trivial h
  -- a choice between four, or between three, ways on
  case ctInNext => exact hasCfg_ite h <| hasCfg_ite h <| hasCfg_ite h h
  case spInNext | parseRecord | ifaceMatch => exact hasCfg_ite h <| hasCfg_ite h h
  -- a choice between two ways on
  case recheckDisc | retIfEmerg | defaultFetched | defaultRetry | defaultMps | defaultAddressed | addressedFetched |
      addressedMatch | configuredFetched | configuredSet | ctStage | ctInLoop | ctOutLoop | spOutLoop | spInLoop |
      armCrit =>
    exact hasCfg_ite h h
  -- a fixed continuation
  case ctInTake | ctExit | spInTake | spExit | prime | armCauses | parseEnd => exact h
  -- a continuation under a test
  all_goals exact (onlyIf_hasCfg ..).mpr h

end

/-! ### A run, an operation and a step -/

theorem MicroResult.HasCfg.ran {r : MicroResult} (h : r.HasCfg c) (hr : r = .ran s) : s.cfg = c := by
  subst hr
  exact h

theorem MicroResult.HasCfg.pending {r : MicroResult} (h : r.HasCfg c) (hr : r = .pending s) : s.cfg = c := by
  subst hr
  exact h

theorem answersCfg_iff {o : Host.Outcome State Fault Refusal} : AnswersCfg c o ↔ ∀ t, o = .next t → t.cfg = c := by
  cases o <;> simp [AnswersCfg]

theorem run_cfg (n : Nat) (h : s.cfg = c) : AnswersCfg c (run n s) := by
  refine answersCfg_iff.mpr fun t ht => run_induct (·.cfg = c) ?ran ?pending ?occurs n s t ht h
  case ran =>
    intro s m rest s1 hs _ hm
    exact (State.elapse_cfg s1).trans ((micro_cfg (s := s.setFg rest) m hs).ran hm)
  case pending =>
    intro s m rest s1 hs _ hm
    exact (micro_cfg (s := s.setFg rest) m hs).pending hm
  case occurs =>
    intro s i later s1 hs _ ho
    exact answersCfg_iff.mp (occur_cfg (s := s.setInputs later) i.event hs) s1 ho

theorem startFg_cfg (ms : List Micro) (h : s.cfg = c) : AnswersCfg c (startFg ms s) :=
  answersCfg_ite (run_cfg burst h) trivial

theorem exec_cfg (i : Instr) (h : s.cfg = c) : AnswersCfg c (exec i s) := by
  cases i
  case tick | abortAllPipes | checkClass => exact startFg_cfg _ h
  case transferControl | sendData | getData => exact answersCfg_ite (startFg_cfg _ h) trivial
  case sendDataAsync p =>
    rw [exec, execSendDataAsync]
    split
    · trivial
    · exact startFg_cfg _ h
  case getDataAsync p =>
    rw [exec, execGetDataAsync]
    split
    · trivial
    · exact startFg_cfg _ h
  case checkVidPid => exact answersCfg_ite h trivial
  case pipeIsr p => exact answersCfg_ite (enter_cfg _ h) trivial
  case evSof => exact enter_cfg .sof h
  case evDisconnect => exact enter_cfg .disconnect h
  case evRoleChange => exact enter_cfg .roleChange h
  case evVbusError => exact enter_cfg .vbusError h
  case evWakeup => exact enter_cfg .wakeup h
  case interfaceClass i => exact queryIface_cfg i _ h
  case interfaceSubclass i => exact queryIface_cfg i _ h
  case interfaceProtocol i => exact queryIface_cfg i _ h
  case interfacePipe i e => exact execInterfacePipe_cfg i e h
  all_goals exact h

theorem goOn_cfg (h : s.cfg = c) : AnswersCfg c (goOn s) := by
  unfold goOn
  split
  · exact run_cfg burst h
  split
  · exact h
  · exact occur_cfg _ h

end

/-- Settles O58: an operation presented, the run that goes on and an event of the environment each keep the parameters. -/
theorem stepKeepsParameters : Obligations.StepKeepsParameters := by
  intro s t hstep
  obtain ⟨_, i, -, -, hexec⟩ | ⟨-, hgo⟩ := step_cases s t hstep
  · exact answersCfg_iff.mp (exec_cfg (s := s.setBus none) i rfl) t hexec
  · exact answersCfg_iff.mp (goOn_cfg rfl) t hgo

end Sys2Proof.Machine
end
